-- ==== Sys2Proof/Word.lean ====
section
/-! DEFINITION. The word types of the block: registers and masks are 32 bits (00_scope.md R6), row-buffer cells, palette
fields and C8 channels are bytes, C16 channels are 16 bits (R12). -/

namespace Sys2Proof

/-- A register, a mask, a command word, a pixel word: 32 bits (R6). -/
abbrev Word := BitVec 32

/-- A row-buffer byte, a palette field, an index, a C8 channel (R12, R40, R41). -/
abbrev Byte := BitVec 8

/-- A C16 channel (R12). -/
abbrev Half := BitVec 16

end Sys2Proof
end

