-- ==== Sys2Proof/Syntax.lean ====
section
/-! DEFINITION. The commands of the block: one constructor per row of spec/opcode_table.json (30_encoding.md R83). -/

namespace Sys2Proof

/-- A channel, numbered c = 0 to 3 in this order (00_scope.md R13). -/
inductive Channel where
  | r
  | g
  | b
  | a
deriving DecidableEq, Repr

/-- A command: the opcode and its immediate fields (30_encoding.md R81). Operands in ARG0 to ARG2 are read from State. -/
inductive Instr where
  | nop
  | reset
  /-- `bpp` is the literal bit count of IMM[7:0], `bf` is IMM[8] (R82). -/
  | cfg (bpp : Nat) (bf : Bool)
  | maskWr (ch : Channel)
  | palPush
  | rowPush
  | palRd
  | pixRd
  | idxRd
  | maskAn
  | chx16
  | chx32
  | dec1
  | dec4
  | dec8
  | dec16
  | dec24
  | dec32
deriving DecidableEq, Repr

end Sys2Proof
end

