-- ==== Sys2Proof/WellFormed.lean ====
section
/-! DEFINITION. Which terms of Instr are commands the format can carry (30_encoding.md R81). -/

namespace Sys2Proof

/-- The one field whose type is wider than its encoding: BPP is 8 bits (R81). A BPP that is no supported depth is still well
formed (R84). -/
abbrev WellFormed : Instr → Prop
  | .cfg bpp _ => bpp < 2 ^ 8
  | .nop | .reset | .maskWr _ | .palPush | .rowPush | .palRd | .pixRd | .idxRd | .maskAn | .chx16 | .chx32
  | .dec1 | .dec4 | .dec8 | .dec16 | .dec24 | .dec32 => True

end Sys2Proof
end

