-- ==== Sys2Proof/Decode.lean ====
section
/-! DEFINITION. Decoding a command word, total on all 2^32 words (30_encoding.md R80 to R86), and the encoder written from
the same tables. A command word is one 32-bit number that crosses the bus whole, so it has no byte order (20_memory.md R62,
log 17). -/

namespace Sys2Proof

/-- Why a word is no command (30_encoding.md R85). -/
inductive Illegal where
  /-- OP is not in the table of R83. -/
  | unassignedOpcode
  /-- OP is assigned and a reserved field of its format is not 0 (R81). -/
  | reservedField
deriving DecidableEq, Repr

/-- What a word decodes to (R84). -/
inductive Decoded where
  | legal (i : Instr)
  | illegal (why : Illegal)
deriving DecidableEq, Repr

/-- OP = w[31:24] (R80). -/
def opField (w : Word) : BitVec 8 := w.extractLsb' 24 8

/-- IMM = w[23:0] (R80). -/
def immField (w : Word) : BitVec 24 := w.extractLsb' 0 24

/-- Format Z: IMM is reserved (R81). -/
def decodeZ (i : Instr) (imm : BitVec 24) : Decoded :=
  if imm = 0 then .legal i else .illegal .reservedField

/-- Format CFGF: IMM[23:9] reserved, BF = IMM[8], BPP = IMM[7:0] (R81, R82). -/
def decodeCfg (imm : BitVec 24) : Decoded :=
  if imm.extractLsb' 9 15 = 0 then .legal (.cfg (imm.extractLsb' 0 8).toNat (imm.getLsbD 8))
  else .illegal .reservedField

/-- Channel number to channel (00_scope.md R13). -/
def channelOf (ch : BitVec 2) : Channel :=
  if ch = 0 then .r else if ch = 1 then .g else if ch = 2 then .b else .a

/-- Format CHF: IMM[23:2] reserved, CH = IMM[1:0] (R81). -/
def decodeMaskWr (imm : BitVec 24) : Decoded :=
  if imm.extractLsb' 2 22 = 0 then .legal (.maskWr (channelOf (imm.extractLsb' 0 2)))
  else .illegal .reservedField

/-- decode(w) of R84. It reads no state (R84, R86). -/
def decode (w : Word) : Decoded :=
  match (opField w).toNat with
  | 0x00 => decodeZ .nop (immField w)
  | 0x01 => decodeZ .reset (immField w)
  | 0x02 => decodeCfg (immField w)
  | 0x03 => decodeMaskWr (immField w)
  | 0x04 => decodeZ .palPush (immField w)
  | 0x05 => decodeZ .rowPush (immField w)
  | 0x06 => decodeZ .palRd (immField w)
  | 0x07 => decodeZ .pixRd (immField w)
  | 0x08 => decodeZ .idxRd (immField w)
  | 0x09 => decodeZ .maskAn (immField w)
  | 0x0A => decodeZ .chx16 (immField w)
  | 0x0B => decodeZ .chx32 (immField w)
  | 0x10 => decodeZ .dec1 (immField w)
  | 0x11 => decodeZ .dec4 (immField w)
  | 0x12 => decodeZ .dec8 (immField w)
  | 0x13 => decodeZ .dec16 (immField w)
  | 0x14 => decodeZ .dec24 (immField w)
  | 0x15 => decodeZ .dec32 (immField w)
  | _ => .illegal .unassignedOpcode

/-- The instruction the decoder reads from a table row's word. A command is one 32-bit word (R80). -/
def decodeTableWord (nbits w : Nat) : Option Instr :=
  if nbits ≤ 32 ∧ w < 2 ^ nbits then
    match decode (BitVec.ofNat 32 w) with
    | .legal i => some i
    | .illegal _ => none
  else none

/-- Channel to channel number (00_scope.md R13). -/
def channelCode : Channel → BitVec 2
  | .r => 0
  | .g => 1
  | .b => 2
  | .a => 3

/-- The opcode of a command (R83). -/
def opcode : Instr → BitVec 8
  | .nop => 0x00
  | .reset => 0x01
  | .cfg _ _ => 0x02
  | .maskWr _ => 0x03
  | .palPush => 0x04
  | .rowPush => 0x05
  | .palRd => 0x06
  | .pixRd => 0x07
  | .idxRd => 0x08
  | .maskAn => 0x09
  | .chx16 => 0x0A
  | .chx32 => 0x0B
  | .dec1 => 0x10
  | .dec4 => 0x11
  | .dec8 => 0x12
  | .dec16 => 0x13
  | .dec24 => 0x14
  | .dec32 => 0x15

/-- The immediate field of a command by its format (R81). -/
def immediate : Instr → BitVec 24
  | .cfg bpp bf => (0#15 ++ BitVec.ofBool bf ++ BitVec.ofNat 8 bpp : BitVec 24)
  | .maskWr ch => (0#22 ++ channelCode ch : BitVec 24)
  | .nop | .reset | .palPush | .rowPush | .palRd | .pixRd | .idxRd | .maskAn | .chx16 | .chx32
  | .dec1 | .dec4 | .dec8 | .dec16 | .dec24 | .dec32 => 0

/-- The command word of an instruction: OP in [31:24], IMM in [23:0] (R80). -/
def encode (i : Instr) : Word := opcode i ++ immediate i

end Sys2Proof
end

