-- ==== Sys2Proof/Config.lean ====
section
/-! DEFINITION. What an implementation fixes: the parameters of 00_scope.md R6. They are OPEN, so the model takes them as
data (State holds one `Params`, log 1), and every statement about all states is about all their values. -/

namespace Sys2Proof

/-- The parameter EXPAND16 (R6): the default REPLICATE of 41_mask_channel.md R135, or any other function that satisfies the
laws of R136. `lawful` stands for ALL of those: what the laws leave open is `Config.expand16Low` (log 2). -/
inductive Expand16 where
  | replicate
  | lawful
deriving DecidableEq, Repr

/-- The parameters of R6. PAL_DEPTH is fixed and stands in `Config.palDepth`. -/
structure Params where
  /-- BASE_ADDR: host address of the 4 KiB register window. -/
  baseAddr : Nat
  /-- MAX_WIDTH: largest accepted image width in pixels. -/
  maxWidth : Nat
  /-- MAX_HEIGHT: largest accepted absolute height in rows. -/
  maxHeight : Nat
  /-- ROWBUF_BYTES: capacity of the scanline buffer in bytes. -/
  rowbufBytes : Nat
  /-- EXPAND16: the widening function of the 16-bit decoder. -/
  expand16 : Expand16
deriving DecidableEq, Repr

/-- The constraints R6 puts on the parameters. -/
abbrev Params.Wf (p : Params) : Prop :=
  p.baseAddr % 4096 = 0 ∧
  (1 ≤ p.maxWidth ∧ p.maxWidth ≤ 2 ^ 31 - 1) ∧
  (1 ≤ p.maxHeight ∧ p.maxHeight ≤ 2 ^ 31) ∧
  (p.rowbufBytes % 4 = 0 ∧ 4 ≤ p.rowbufBytes ∧ p.rowbufBytes ≤ 2 ^ 32 - 4)

/-- PAL_DEPTH, fixed at 256 (R6). -/
def Config.palDepth : Nat := 256

/-- Size of the register window in bytes (20_memory.md R60). -/
def Config.windowBytes : Nat := 4096

/-- The example values 95_test_vectors.md gives for the capacities, EXPAND16 at its default, and the window at host address
0: the values State.reset takes (DESIGN CHOICE, log 1). The parameters are OPEN; no rule of the spec fixes them. -/
def Config.exampleParams : Params :=
  { baseAddr := 0, maxWidth := 4096, maxHeight := 4096, rowbufBytes := 16384, expand16 := .replicate }

/-- FREE VALUE: the bits of a widened channel that the laws L1 to L5 of R136 leave open, as a function of the channel value
v and its width n, for an EXPAND16 other than REPLICATE (log 2). It has no body: nothing can be proved of a value of it. -/
opaque Config.expand16Low : Nat → Nat → Half

end Sys2Proof
end

