-- ==== Sys2Proof/Machine/Analyzer.lean ====
section
/-! DEFINITION. The mask analyzer and channel extractor of 41_mask_channel.md: pure functions, total on every argument. -/

namespace Sys2Proof.Machine

/-- min { i in 0..31 : m[i] = 1 } of R130, and 0 for m = 0. -/
def maskShift (m : Word) : Nat :=
  ((List.range 32).find? (fun i => m.getLsbD i)).getD 0

/-- The count of set bits of m from bit s upward without a gap, up to bit 31: the while loop of R130. -/
def maskRun (m : Word) (s : Nat) : Nat :=
  ((List.range (32 - s)).takeWhile (fun k => m.getLsbD (s + k))).length

/-- analyze(m).width of R130. -/
def maskWidth (m : Word) : Nat := maskRun m (maskShift m)

/-- contig(m) of R131: m is zero or its set bits form one unbroken run. -/
def contig (m : Word) : Bool :=
  m.toNat == (2 ^ maskWidth m - 1) <<< maskShift m

/-- The analysis word SHIFT | WIDTH << 8 | CONTIG << 16 of 10_state.md R38 and 41_mask_channel.md R140. -/
def analysisWord (m : Word) : Word :=
  (0#15 ++ BitVec.ofBool (contig m) ++ BitVec.ofNat 8 (maskWidth m) ++ BitVec.ofNat 8 (maskShift m) : BitVec 32)

/-- defaultMask(bpp, c) of R132. -/
def defaultMask (bpp : Nat) (c : Channel) : Word :=
  match bpp, c with
  | 16, .r => 0x0000F800
  | 16, .g => 0x000007E0
  | 16, .b => 0x0000001F
  | 16, .a => 0x00000000
  | 32, .r => 0x00FF0000
  | 32, .g => 0x0000FF00
  | 32, .b => 0x000000FF
  | 32, .a => 0xFF000000
  | _, _ => 0

/-- extract(p, m) of R134: the channel bits of a pixel word, as an unsigned number. -/
def extract (p m : Word) : Nat :=
  (p.toNat >>> maskShift m) &&& (2 ^ maskWidth m - 1)

/-- Bit i of REPLICATE: out[i] = v[n - 1 - ((15 - i) mod n)] (R135). -/
def replicateBit (v n i : Nat) : Bool := v.testBit (n - 1 - (15 - i) % n)

/-- A number from bits 0 to k - 1. -/
def bitsToNat (f : Nat → Bool) : Nat → Nat
  | 0 => 0
  | k + 1 => bitsToNat f k + (f k).toNat * 2 ^ k

/-- REPLICATE, the default EXPAND16 (R135); an absent channel (n = 0) is 0. For n above 16, which no command reaches, it is
the top 16 bits of the channel (log 3). -/
def replicateExpand (v n : Nat) : Half :=
  if n = 0 then 0 else BitVec.ofNat 16 (bitsToNat (replicateBit v n) 16)

/-- Any EXPAND16 that satisfies the laws L1 to L5 of R136: the bits the laws fix are as they say, and every other bit is the
free value `Config.expand16Low` (log 2). -/
def lawfulExpand (v n : Nat) : Half :=
  if n = 0 ∨ v = 0 then 0
  else if v = 2 ^ n - 1 then 0xFFFF
  else
    let free := (Config.expand16Low v n).toNat
    if 2 * n ≤ 16 then
      BitVec.ofNat 16 (v * 2 ^ (16 - n) + v * 2 ^ (16 - 2 * n) + free % 2 ^ (16 - 2 * n))
    else
      BitVec.ofNat 16 (v * 2 ^ (16 - n) + free % 2 ^ (16 - n))

/-- expand16(v, n): the parameter EXPAND16 applied (R6, R135, R136). -/
def expand16 (e : Expand16) (v n : Nat) : Half :=
  match e with
  | .replicate => replicateExpand v n
  | .lawful => lawfulExpand v n

/-- channel16(p, m) of R137. -/
def channel16 (e : Expand16) (p m : Word) : Half := expand16 e (extract p m) (maskWidth m)

/-- channel8(p, m) of R138: the low 8 bits of the field. -/
def channel8 (p m : Word) : Byte := BitVec.ofNat 8 (extract p m)

/-- What a 16-bit pixel can be asked through: a contiguous mask with no bit above 15 (R141, 40_session.md R110). -/
def mask16Ok (m : Word) : Bool := contig m && m.extractLsb' 16 16 == 0

/-- Alpha of a 32-bit pixel: opaque where the mask is zero (R139). -/
def alpha32 (p m : Word) : Byte := if m = 0 then 0xFF else channel8 p m

end Sys2Proof.Machine
end

