-- ==== Sys2Proof/Machine/State.lean ====
section
/-! DEFINITION. Everything the block holds (10_state.md R20 to R43), the inputs the model reads and the value it last
returned, and the state after a hardware reset (R44, 70_reset_and_hazards.md R250). Plain data throughout. -/

namespace Sys2Proof.Machine

/-- STATUS.PHASE (R23, R24). The encodings 5 to 7 never occur (R23), so they have no constructor. -/
inductive Phase where
  | idle
  | config
  | decode
  | done
  | failed
deriving DecidableEq, Repr

/-- STATUS.ERR (60_exceptions.md R221). The codes 12 to 15 are never raised, so they have no constructor. -/
inductive ErrCode where
  | noError
  | fmtDepth
  | fmtGeom
  | capacity
  | ioPalette
  | ioMasks
  | ioRow
  | mask
  | seq
  | illegal
  | range
  | palIndex
deriving DecidableEq, Repr

/-- A pixel kind (00_scope.md R12). `None` is an unlisted cell of IMG. -/
inductive Pixel where
  | idx (i : Byte)
  | c8 (r g b a : Byte)
  | c16 (r g b a : Half)
deriving DecidableEq, Repr

/-- A palette entry: three bytes, no alpha (R40). -/
structure Rgb where
  r : Byte
  g : Byte
  b : Byte
deriving DecidableEq, Repr

/-- A memory as (key, value) pairs, keys strictly rising, no pair equal to what an unlisted key reads as
(`Memory.wf`, Machine/Ops.lean). -/
abbrev Store (α : Type) := List (Nat × α)

/-- One input from outside the block. `addr` is a host address, `width` a size in bytes (20_memory.md R61, R62, R65). -/
inductive Access where
  /-- A bus read of `width` bytes: MemRead when the contract holds (R62). -/
  | read (width : Nat) (addr : Nat)
  /-- A bus write of `width` bytes: MemWrite when the contract holds (R62). -/
  | write (width : Nat) (addr : Nat) (value : Word)
  /-- The hardware reset input is asserted and released between two accesses (70_reset_and_hazards.md R250). -/
  | hardwareReset
deriving DecidableEq, Repr

/-- Why the model stops. Each is a stop where the spec gives the block no step, so each is safe. -/
inductive Fault where
  /-- PIX_RD or IDX_RD met an IMG cell holding None: "A model that meets one must fault, not return a value"
  (43_readback.md R208). Raised by execPixRd and execIdxRd, in states no run reaches. Safe. -/
  | imgCellNone
  /-- IDX_RD met a cell that is no index, in a session marked INDEXED: R205 says it is "always Idx in an indexed session".
  Raised by execIdxRd, in states no run reaches (log 12). Safe. -/
  | imgCellNotIndex
  /-- A DECn or ROW_PUSH would reach a cell outside ROWBUF or IMG (20_memory.md R60). Raised by storeRow and execRowPush, in
  states no run reaches (log 12). Safe. -/
  | outsideStore
  /-- An access to the window that is not 32 bits wide and 4-byte aligned: "A model gives such an access no step"
  (20_memory.md R65). Raised by the bus (Machine/Bus.lean, log 8). Safe. -/
  | outsideContract
deriving DecidableEq, Repr

/-- What the model gives no meaning. Each is safe: nothing is proved of a run that meets one. -/
inductive Refusal where
  /-- An instruction that has no meaning yet. Raised only by exec's arms; no arm of this model raises it. Safe. -/
  | notModelled (mnemonic : String)
  /-- An access to a host address outside the register window: it is "not the block's, and no rule of this spec applies to
  it" (20_memory.md R61). Raised by the bus (Machine/Bus.lean, log 9). Safe. -/
  | outsideWindow
deriving DecidableEq, Repr

/-- The state. Fields down to `img` are the block's (R43: "The block holds no other state"). ID, CMD, CAP_c and MSW_c are
hard-wired, hold nothing, or are derived, so they are computed where they are read (Machine/Bus.lean). -/
structure State where
  /-- The parameters (00_scope.md R6); CAP_WIDTH, CAP_HEIGHT and CAP_ROWBUF read them (R39). No step changes them. -/
  params : Params
  /-- STATUS.PHASE, STATUS[2:0] (R23, R24). -/
  phase : Phase
  /-- STATUS.MASK_VALID, STATUS[7:4]: bit c for channel c (R23). -/
  maskValid : BitVec 4
  /-- STATUS.ERR, STATUS[11:8] (R23, 60_exceptions.md R221). -/
  err : ErrCode
  /-- STATUS.INDEXED, STATUS[12] (R23). -/
  indexed : Bool
  /-- ARG0 to ARG2 (R25). -/
  arg0 : Word
  arg1 : Word
  arg2 : Word
  /-- RES0 to RES2 (R26). -/
  res0 : Word
  res1 : Word
  res2 : Word
  /-- CFG_MODE.BPP, CFG_MODE[7:0] (R27). -/
  bpp : BitVec 8
  /-- CFG_MODE.BF, CFG_MODE[8] (R27). -/
  bf : Bool
  /-- CFG_WIDTH, CFG_HEIGHT, CLR_USED (R28, R29, R30). -/
  cfgWidth : Word
  cfgHeight : Word
  clrUsed : Word
  /-- PAL_LEN, PAL_CNT (R31, R32). -/
  palLen : Word
  palCnt : Word
  /-- ROW_BYTES, ROW_WPTR (R33, R34). -/
  rowBytes : Word
  rowWptr : Word
  /-- SRC_ROW, ROWS_TOTAL (R35, R36). -/
  srcRow : Word
  rowsTotal : Word
  /-- MASK_R, MASK_G, MASK_B, MASK_A (R37). -/
  maskR : Word
  maskG : Word
  maskB : Word
  maskA : Word
  /-- PAL[0..255] (R40), by entry index. -/
  palette : Store Rgb
  /-- ROWBUF (R41), by byte index. -/
  rowbuf : List Host.Cell
  /-- IMG (R42), by `Sys2Proof.Machine.imgKey x y`; an unlisted cell is None. -/
  img : Store Pixel
  /-- The model's own: the inputs not yet taken, oldest first (log 4). -/
  pending : List Access
  /-- The model's own: what the last MemRead returned (log 5). -/
  readData : Option Word
deriving DecidableEq, Repr

/-- The state after a hardware reset of a block with parameters `p` (R44, 70_reset_and_hazards.md R250). The spec leaves PAL
and ROWBUF unspecified; here nothing is listed, so every entry reads as zero (log 7). -/
def State.resetWith (p : Params) : State :=
  { params := p
    phase := .idle, maskValid := 0, err := .noError, indexed := false
    arg0 := 0, arg1 := 0, arg2 := 0, res0 := 0, res1 := 0, res2 := 0
    bpp := 0, bf := false, cfgWidth := 0, cfgHeight := 0, clrUsed := 0
    palLen := 0, palCnt := 0, rowBytes := 0, rowWptr := 0, srcRow := 0, rowsTotal := 0
    maskR := 0, maskG := 0, maskB := 0, maskA := 0
    palette := [], rowbuf := [], img := []
    pending := [], readData := none }

/-- The state after reset, with the parameters at the example values of 95_test_vectors.md (log 1). -/
def State.reset : State := State.resetWith Config.exampleParams

end Sys2Proof.Machine
end

