-- ==== Sys2Proof/Machine/Ops.lean ====
section
/-! DEFINITION. The operations every command is built from: the internal memories, error entry and the ways out of FAILED,
the clear step, the decode-entry check, result writing. -/

namespace Sys2Proof.Machine

/-- The outcome of a command or of a step. -/
abbrev Result := Host.Outcome State Fault Refusal

/-! ## Memories: lists of (key, value) pairs in canonical form (log 7, log 18) -/

namespace Memory

/-- The value listed at a key, if any. -/
def find {α : Type} (k : Nat) : Store α → Option α
  | [] => none
  | (j, v) :: rest => if j = k then some v else find k rest

/-- List a value at a key, in rising order of keys. -/
def insert {α : Type} (k : Nat) (v : α) : Store α → Store α
  | [] => [(k, v)]
  | (j, u) :: rest =>
    if k < j then (k, v) :: (j, u) :: rest
    else if j = k then (k, v) :: rest
    else (j, u) :: insert k v rest

/-- Take a key off the list. -/
def erase {α : Type} (k : Nat) (m : Store α) : Store α := m.filter (fun e => e.1 != k)

/-- Read a key of a memory whose unlisted keys read as `d`. -/
def get {α : Type} (d : α) (k : Nat) (m : Store α) : α := (find k m).getD d

/-- Write a key of a memory whose unlisted keys read as `d`: writing `d` takes the key off the list. -/
def put {α : Type} [DecidableEq α] (d : α) (k : Nat) (v : α) (m : Store α) : Store α :=
  if v = d then erase k m else insert k v m

/-- Keys strictly rising. -/
abbrev Rising {α : Type} (m : Store α) : Prop := (m.map Prod.fst).Pairwise (· < ·)

/-- The canonical form: keys strictly rising, and no entry equal to what an unlisted key reads as. -/
def wf {α : Type} [DecidableEq α] (d : α) (m : Store α) : Bool :=
  decide (Rising m) && m.all (fun e => decide (e.2 ≠ d))

end Memory

/-- What PAL entries and ROWBUF bytes nothing has written read as: R251 lets a model fix any value (log 7). -/
def unwrittenRgb : Rgb := { r := 0, g := 0, b := 0 }

/-- As `unwrittenRgb`, for ROWBUF. -/
def unwrittenByte : Byte := 0

/-- PAL[i] (10_state.md R40). -/
def palEntry (i : Nat) (s : State) : Rgb := Memory.get unwrittenRgb i s.palette

/-- ROWBUF[k] (10_state.md R41). -/
def rowByte (k : Nat) (s : State) : Byte := Memory.get unwrittenByte k s.rowbuf

/-- The key of IMG[x, y]: distinct for all x, y below 2^32 (10_state.md R42, log 18). -/
def imgKey (x y : Nat) : Nat := y * 2 ^ 32 + x

/-- IMG[x, y]; `none` is the spec's None (00_scope.md R12). -/
def imgCell (x y : Nat) (s : State) : Option Pixel := Memory.find (imgKey x y) s.img

/-- PAL[i] <- e. -/
def setPalEntry (i : Nat) (e : Rgb) (s : State) : State :=
  { s with palette := Memory.put unwrittenRgb i e s.palette }

/-- ROWBUF[k] <- v. -/
def putRowByte (k : Nat) (v : Byte) (m : List Host.Cell) : List Host.Cell := Memory.put unwrittenByte k v m

/-- IMG[x, y] <- pixel x for x in 0 .. w - 1 (42_scanline_decoders.md R163). -/
def writeRow (y : Nat) (pixel : Nat → Pixel) : Nat → Store Pixel → Store Pixel
  | 0, m => m
  | x + 1, m => writeRow y pixel x (Memory.insert (imgKey x y) (pixel x) m)

/-- The internal memories are in canonical form. -/
def State.memWf (s : State) : Bool :=
  Memory.wf unwrittenRgb s.palette && Memory.wf unwrittenByte s.rowbuf && decide (Memory.Rising s.img)

/-! ## Error entry and the ways out of FAILED (60_exceptions.md) -/

/-- raise E: error entry (00_scope.md R10, 60_exceptions.md R224). ERR and PHASE, nothing else. -/
def raise (e : ErrCode) (s : State) : Result := .next { s with err := e, phase := .failed }

/-- The FAILED filter of R225: in FAILED every command but NOP, RESET and CFG is ignored (log 11). -/
def unlessFailed (s : State) (k : Result) : Result := if s.phase = .failed then .next s else k

/-- clearSession() of 40_session.md R103, which RESET and CFG run, and with which a FAILED session is left (R226). ARG, RES,
PAL and ROWBUF are not touched. -/
def clearSession (s : State) : State :=
  { s with
    phase := .idle, maskValid := 0, err := .noError, indexed := false
    bpp := 0, bf := false, cfgWidth := 0, cfgHeight := 0, clrUsed := 0
    palLen := 0, palCnt := 0, rowBytes := 0, rowWptr := 0, srcRow := 0, rowsTotal := 0
    maskR := 0, maskG := 0, maskB := 0, maskA := 0
    img := [] }

/-- A hardware reset (70_reset_and_hazards.md R250, 10_state.md R44): the third way out of FAILED (R226). The parameters are
the block's, and the inputs and the value last returned are the host's, so they stay (log 6). -/
def hardwareReset (s : State) : State :=
  { State.resetWith s.params with pending := s.pending, readData := s.readData }

/-- A word that is no command: ILLEGAL, or ignored in FAILED (R225, 30_encoding.md R85). -/
def illegalWord (s : State) : Result := unlessFailed s (raise .illegal s)

/-! ## Masks and the decode-entry check -/

/-- MASK_c: effMask(c) of 41_mask_channel.md R133. -/
def maskOf (c : Channel) (s : State) : Word :=
  match c with
  | .r => s.maskR
  | .g => s.maskG
  | .b => s.maskB
  | .a => s.maskA

/-- MASK_c <- m. -/
def setMask (c : Channel) (m : Word) (s : State) : State :=
  match c with
  | .r => { s with maskR := m }
  | .g => { s with maskG := m }
  | .b => { s with maskB := m }
  | .a => { s with maskA := m }

/-- enterDecode() of 40_session.md R110: the first check that fails, or none. It writes nothing. -/
def enterDecode (s : State) : Option ErrCode :=
  if s.palCnt ≠ s.palLen then some .ioPalette
  else if s.bf = true ∧ s.maskValid ≠ 0xF then some .ioMasks
  else if s.bpp = 16 ∧ ¬(mask16Ok s.maskR = true ∧ mask16Ok s.maskG = true ∧ mask16Ok s.maskB = true) then some .mask
  else if s.bpp = 32 ∧
      ¬(contig s.maskR = true ∧ contig s.maskG = true ∧ contig s.maskB = true ∧ contig s.maskA = true) then some .mask
  else none

/-! ## Results -/

/-- RES0, RES1, RES2 <- a, b, c (10_state.md R26). -/
def setResult (a b c : Word) (s : State) : State := { s with res0 := a, res1 := b, res2 := c }

/-- A read-back result by pixel kind, with the kind tag in RES2 (43_readback.md R201). -/
def setPixelResult (p : Pixel) (s : State) : State :=
  match p with
  | .c8 r g b a => setResult (a ++ r ++ g ++ b : BitVec 32) 0 0 s
  | .c16 r g b a => setResult (r ++ g : BitVec 32) (b ++ a : BitVec 32) 1 s
  | .idx i => setResult (i.setWidth 32) 0 2 s

end Sys2Proof.Machine
end

