-- ==== Sys2Proof/Machine/Operands.lean ====
section
/-! DEFINITION. How a command reads its operands: ARG0 to ARG2 (30_encoding.md R82, 10_state.md R25), the fields packed in ARG0
(20_memory.md R67, R69), and multi-byte pixels in the row buffer (R66, R70). -/

namespace Sys2Proof.Machine

/-- An ARG operand as an unsigned number (R82). -/
abbrev unsignedArg (w : Word) : Nat := w.toNat

/-- sext_32 (00_scope.md R8): CFG's width and height (R82). -/
abbrev signedArg (w : Word) : Int := w.toInt

/-- Stream byte s_j of ARG0, ARG0[8j+7 : 8j] (R67). -/
def streamByte (w : Word) (j : Nat) : Byte := w.extractLsb' (8 * j) 8

/-- The palette entry a PAL_PUSH word carries: blue, green, red from bit 0 up, the reserved byte discarded (R69). -/
def paletteEntry (w : Word) : Rgb :=
  { r := w.extractLsb' 16 8, g := w.extractLsb' 8 8, b := w.extractLsb' 0 8 }

/-- LE16(k) (R66), zero-extended to a pixel word. -/
def le16 (k : Nat) (s : State) : Word := (0#16 ++ rowByte (k + 1) s ++ rowByte k s : BitVec 32)

/-- LE32(k) (R66). -/
def le32 (k : Nat) (s : State) : Word :=
  (rowByte (k + 3) s ++ rowByte (k + 2) s ++ rowByte (k + 1) s ++ rowByte k s : BitVec 32)

/-- idx_b(x), MSB first (42_scanline_decoders.md R165). -/
def rowIndex (b x : Nat) (s : State) : Byte :=
  let ppb := 8 / b
  let sh := 8 - b * (x % ppb + 1)
  BitVec.ofNat 8 (((rowByte (x / ppb) s).toNat >>> sh) &&& (2 ^ b - 1))

end Sys2Proof.Machine
end

