-- ==== Sys2Proof/Machine/Extractor.lean ====
section
/-! DEFINITION. The commands that expose the analyzer and extractor (41_mask_channel.md R140 to R142). They read no session
state but the phase. -/

namespace Sys2Proof.Machine

/-- MASK_AN (R140). -/
def execMaskAn (s : State) : Result :=
  unlessFailed s <| .next (setResult (analysisWord s.arg0) 0 0 s)

/-- CHX16 (R141). -/
def execChx16 (s : State) : Result :=
  unlessFailed s <|
    if mask16Ok s.arg1 = false then raise .mask s
    else .next (setResult ((channel16 s.params.expand16 s.arg0 s.arg1).setWidth 32) 0 0 s)

/-- CHX32 (R142). -/
def execChx32 (s : State) : Result :=
  unlessFailed s <|
    if contig s.arg1 = false then raise .mask s
    else .next (setResult ((channel8 s.arg0 s.arg1).setWidth 32) 0 0 s)

end Sys2Proof.Machine
end

