-- ==== Sys2Proof/Machine/Readback.lean ====
section
/-! DEFINITION. Palette lookup and image read-back (43_readback.md): PAL_RD, PIX_RD, IDX_RD, legal only in DONE. -/

namespace Sys2Proof.Machine

/-- A palette colour read out: alpha fixed to fully opaque (10_state.md R40, 41_mask_channel.md R139). -/
def opaqueColour (e : Rgb) : Pixel := .c8 e.r e.g e.b 0xFF

/-- palLookup(i) of R200; `none` is PAL_INDEX. -/
def palLookup (i : Byte) (s : State) : Option Pixel :=
  if i.toNat ≥ s.palLen.toNat then none else some (opaqueColour (palEntry i.toNat s))

/-- The coordinate check of R204 and R205: x = ARG0, y = ARG1, unsigned. -/
def insideImage (s : State) : Bool :=
  decide (unsignedArg s.arg0 < s.cfgWidth.toNat) && decide (unsignedArg s.arg1 < s.rowsTotal.toNat)

/-- PAL_RD (R203). -/
def execPalRd (s : State) : Result :=
  unlessFailed s <|
    if s.phase ≠ .done ∨ s.indexed ≠ true then raise .seq s
    else if unsignedArg s.arg0 ≥ s.palLen.toNat ∨ unsignedArg s.arg0 ≥ Config.palDepth then raise .range s
    else .next (setPixelResult (opaqueColour (palEntry (unsignedArg s.arg0) s)) s)

/-- PIX_RD (R204). -/
def execPixRd (s : State) : Result :=
  unlessFailed s <|
    if s.phase ≠ .done then raise .seq s
    else if insideImage s = false then raise .range s
    else
      match imgCell (unsignedArg s.arg0) (unsignedArg s.arg1) s with
      | some (.idx i) =>
        match palLookup i s with
        | some c => .next (setPixelResult c s)
        | none => raise .palIndex s
      | some (.c8 r g b a) => .next (setPixelResult (.c8 r g b a) s)
      | some (.c16 r g b a) => .next (setPixelResult (.c16 r g b a) s)
      | none => .fault .imgCellNone

/-- IDX_RD (R205): the stored index, whatever PAL_LEN is. -/
def execIdxRd (s : State) : Result :=
  unlessFailed s <|
    if s.phase ≠ .done ∨ s.indexed ≠ true then raise .seq s
    else if insideImage s = false then raise .range s
    else
      match imgCell (unsignedArg s.arg0) (unsignedArg s.arg1) s with
      | some (.idx i) => .next (setPixelResult (.idx i) s)
      | some (.c8 _ _ _ _) => .fault .imgCellNotIndex
      | some (.c16 _ _ _ _) => .fault .imgCellNotIndex
      | none => .fault .imgCellNone

end Sys2Proof.Machine
end

