-- ==== Sys2Proof/Machine/Scanline.lean ====
section
/-! DEFINITION. The six scanline decoders of 42_scanline_decoders.md, over one common decode step (R163). -/

namespace Sys2Proof.Machine

/-- targetY(h, r) of R162. -/
def targetY (h : Int) (r : Nat) : Int := if h > 0 then h - 1 - r else r

/-- The bytes that hold pixel bits, ceil(w * n / 8) (R161, R164). -/
def dataBytes (w n : Nat) : Nat := (w * n + 7) / 8

/-- pixel_n(x) for the indexed depths 1, 4 and 8 (R170 to R172). -/
def pixelIndexed (b : Nat) (s : State) (x : Nat) : Pixel := .idx (rowIndex b x s)

/-- pixel_16(x) of R173; MASK_A is not read and alpha is opaque (41_mask_channel.md R139). -/
def pixel16 (s : State) (x : Nat) : Pixel :=
  let p := le16 (2 * x) s
  .c16 (channel16 s.params.expand16 p s.maskR) (channel16 s.params.expand16 p s.maskG)
    (channel16 s.params.expand16 p s.maskB) 0xFFFF

/-- pixel_24(x) of R174: blue, green, red (20_memory.md R70), alpha opaque. -/
def pixel24 (s : State) (x : Nat) : Pixel :=
  .c8 (rowByte (3 * x + 2) s) (rowByte (3 * x + 1) s) (rowByte (3 * x) s) 0xFF

/-- pixel_32(x) of R175. -/
def pixel32 (s : State) (x : Nat) : Pixel :=
  let p := le32 (4 * x) s
  .c8 (channel8 p s.maskR) (channel8 p s.maskG) (channel8 p s.maskB) (alpha32 p s.maskA)

/-- The writes of R163: the row of IMG, SRC_ROW, ROW_WPTR, PHASE. -/
def rowStored (pixel : State → Nat → Pixel) (s : State) : State :=
  { s with
    img := writeRow (targetY (signedArg s.cfgHeight) s.srcRow.toNat).toNat (pixel s) s.cfgWidth.toNat s.img
    srcRow := s.srcRow + 1
    rowWptr := 0
    phase := if s.srcRow + 1 = s.rowsTotal then .done else .decode }

/-- The row `rowStored` writes lies in IMG, and the bytes it reads lie in ROWBUF (20_memory.md R60). -/
abbrev rowInStores (n : Nat) (s : State) : Prop :=
  s.cfgWidth.toNat ≤ s.params.maxWidth ∧ dataBytes s.cfgWidth.toNat n ≤ s.params.rowbufBytes ∧
    0 ≤ targetY (signedArg s.cfgHeight) s.srcRow.toNat ∧
    targetY (signedArg s.cfgHeight) s.srcRow.toNat < (s.params.maxHeight : Int)

/-- The row is stored; one outside the stores is a fault that no run reaches (log 12). -/
def storeRow (n : Nat) (pixel : State → Nat → Pixel) (s : State) : Result :=
  if rowInStores n s then .next (rowStored pixel s) else .fault .outsideStore

/-- decodeRow_n() after its phase and depth checks and the entry check (R163). -/
def decodeFullRow (n : Nat) (pixel : State → Nat → Pixel) (s : State) : Result :=
  if s.rowWptr ≠ s.rowBytes then raise .ioRow s else storeRow n pixel s

/-- decodeRow_n() of R163, with the checks in the order of 60_exceptions.md R223. -/
def decodeRow (n : Nat) (pixel : State → Nat → Pixel) (s : State) : Result :=
  unlessFailed s <|
    if ¬(s.phase = .config ∨ s.phase = .decode) then raise .seq s
    else if s.bpp.toNat ≠ n then raise .seq s
    else if s.phase = .config then
      match enterDecode s with
      | some e => raise e s
      | none => decodeFullRow n pixel s
    else decodeFullRow n pixel s

/-- DEC1 (R170). -/
def execDec1 (s : State) : Result := decodeRow 1 (pixelIndexed 1) s

/-- DEC4 (R171). -/
def execDec4 (s : State) : Result := decodeRow 4 (pixelIndexed 4) s

/-- DEC8 (R172). -/
def execDec8 (s : State) : Result := decodeRow 8 (pixelIndexed 8) s

/-- DEC16 (R173). -/
def execDec16 (s : State) : Result := decodeRow 16 pixel16 s

/-- DEC24 (R174). -/
def execDec24 (s : State) : Result := decodeRow 24 pixel24 s

/-- DEC32 (R175). -/
def execDec32 (s : State) : Result := decodeRow 32 pixel32 s

end Sys2Proof.Machine
end

