-- ==== Sys2Proof/Machine/Flags.lean ====
section
/-! DEFINITION. The words software reads that are made of fields: STATUS and CFG_MODE (10_state.md R23, R27), what a session
register reads as outside a session, and the flags CFG and MASK_WR compute. The block has no condition flags but these (R43). -/

namespace Sys2Proof.Machine

/-- The encoding of STATUS.PHASE (R23). -/
def phaseCode : Phase → BitVec 3
  | .idle => 0
  | .config => 1
  | .decode => 2
  | .done => 3
  | .failed => 4

/-- The encoding of STATUS.ERR (60_exceptions.md R221). -/
def errCode : ErrCode → BitVec 4
  | .noError => 0
  | .fmtDepth => 1
  | .fmtGeom => 2
  | .capacity => 3
  | .ioPalette => 4
  | .ioMasks => 5
  | .ioRow => 6
  | .mask => 7
  | .seq => 8
  | .illegal => 9
  | .range => 10
  | .palIndex => 11

/-- STATUS: [12] INDEXED, [11:8] ERR, [7:4] MASK_VALID, [3] reserved, [2:0] PHASE (R23). -/
def statusWord (s : State) : Word :=
  (0#19 ++ BitVec.ofBool s.indexed ++ errCode s.err ++ s.maskValid ++ 0#1 ++ phaseCode s.phase : BitVec 32)

/-- What a session register holding `v` reads as: `v` in a configured session, 0 outside one, which is "phases IDLE and
FAILED" (R27, and R28 to R31, R33, R36). Error entry leaves the register itself alone (60_exceptions.md R224, log 10). -/
def sessionRead (v : Word) (s : State) : Word :=
  match s.phase with
  | .idle | .failed => 0
  | .config | .decode | .done => v

/-- CFG_MODE as it reads: [8] BF, [7:0] BPP in a configured session, else 0 (R27). -/
def modeWord (s : State) : Word := sessionRead (0#23 ++ BitVec.ofBool s.bf ++ s.bpp : BitVec 32) s

/-- The number c of a channel (00_scope.md R13). -/
def channelIndex : Channel → Nat
  | .r => 0
  | .g => 1
  | .b => 2
  | .a => 3

/-- STATUS.MASK_VALID[c] <- 1 (40_session.md R104). -/
def markMaskValid (c : Channel) (v : BitVec 4) : BitVec 4 := v ||| (1#4 <<< channelIndex c)

/-- The six bit depths (40_session.md R102). -/
def supportedDepth (bpp : Nat) : Bool := bpp == 1 || bpp == 4 || bpp == 8 || bpp == 16 || bpp == 24 || bpp == 32

/-- STATUS.INDEXED as CFG sets it (R23, 40_session.md R102). -/
def indexedDepth (bpp : Nat) : Bool := bpp == 1 || bpp == 4 || bpp == 8

end Sys2Proof.Machine
end

