-- ==== Sys2Proof/Machine/Session.lean ====
section
/-! DEFINITION. The session, palette and mask loading commands of 40_session.md: NOP, RESET, CFG, MASK_WR, PAL_PUSH,
ROW_PUSH. -/

namespace Sys2Proof.Machine

/-- rowBytes(w, b) = ((w * b + 31) div 32) * 4 (42_scanline_decoders.md R160). -/
def rowBytesOf (w b : Nat) : Nat := (w * b + 31) / 32 * 4

/-- PAL_LEN as CFG sets it (10_state.md R31, 90_conflicts.md C1). -/
def palLenOf (bpp : Nat) (clr : Word) : Word :=
  if bpp > 8 ∧ clr = 0 then 0 else if clr ≠ 0 then clr else BitVec.ofNat 32 (2 ^ bpp)

/-- NOP (40_session.md R100): legal in every phase, including FAILED. -/
def execNop (s : State) : Result := .next s

/-- RESET (R101): legal in every phase, including FAILED. -/
def execReset (s : State) : Result := .next (clearSession s)

/-- The registers a CFG that passes its checks loads (R102), over a cleared session. -/
def loadSession (bpp : Nat) (bf : Bool) (s : State) : State :=
  { s with
    bpp := BitVec.ofNat 8 bpp, bf := bf
    cfgWidth := s.arg0, cfgHeight := s.arg1, clrUsed := s.arg2
    palLen := palLenOf bpp s.arg2, palCnt := 0
    rowBytes := BitVec.ofNat 32 (rowBytesOf (signedArg s.arg0).toNat bpp), rowWptr := 0
    srcRow := 0, rowsTotal := BitVec.ofNat 32 (signedArg s.arg1).natAbs
    maskR := if bf then 0 else defaultMask bpp .r
    maskG := if bf then 0 else defaultMask bpp .g
    maskB := if bf then 0 else defaultMask bpp .b
    maskA := if bf then 0 else defaultMask bpp .a
    maskValid := if bf then 0 else 0xF
    indexed := indexedDepth bpp
    phase := .config }

/-- CFG (R102): the session is cleared first, then the checks run in the order of R223. Legal in every phase. -/
def execCfg (bpp : Nat) (bf : Bool) (s : State) : Result :=
  let c := clearSession s
  let w := signedArg s.arg0
  let h := signedArg s.arg1
  if supportedDepth bpp = false then raise .fmtDepth c
  else if w ≤ 0 ∨ h = 0 then raise .fmtGeom c
  else if w > (s.params.maxWidth : Int) ∨ h.natAbs > s.params.maxHeight ∨ rowBytesOf w.toNat bpp > s.params.rowbufBytes then
    raise .capacity c
  else .next (loadSession bpp bf c)

/-- MASK_WR (R104). -/
def execMaskWr (ch : Channel) (s : State) : Result :=
  unlessFailed s <|
    if s.phase ≠ .config then raise .seq s
    else if s.bf ≠ true then raise .seq s
    else .next { setMask ch s.arg0 s with maskValid := markMaskValid ch s.maskValid }

/-- PAL_PUSH (R106): entries 256 and up are counted and discarded. -/
def execPalPush (s : State) : Result :=
  unlessFailed s <|
    if s.phase ≠ .config then raise .seq s
    else if s.palCnt.toNat ≥ s.palLen.toNat then raise .seq s
    else if s.palCnt.toNat < Config.palDepth then
      .next { setPalEntry s.palCnt.toNat (paletteEntry s.arg0) s with palCnt := s.palCnt + 1 }
    else .next { s with palCnt := s.palCnt + 1 }

/-- Four stream bytes into ROWBUF at ROW_WPTR (R107, 20_memory.md R67). -/
def pushBytes (s : State) : State :=
  let k := s.rowWptr.toNat
  { s with rowbuf :=
      putRowByte (k + 3) (streamByte s.arg0 3) <| putRowByte (k + 2) (streamByte s.arg0 2) <|
        putRowByte (k + 1) (streamByte s.arg0 1) <| putRowByte k (streamByte s.arg0 0) s.rowbuf }

/-- ROW_PUSH after its phase check and entry check: the overrun check and the writes (R107). -/
def pushRow (s : State) : Result :=
  if s.rowWptr.toNat ≥ s.rowBytes.toNat then raise .seq s
  else if s.rowWptr.toNat + 3 < s.params.rowbufBytes then
    .next { pushBytes s with phase := .decode, rowWptr := s.rowWptr + 4 }
  else .fault .outsideStore

/-- ROW_PUSH (R107). -/
def execRowPush (s : State) : Result :=
  unlessFailed s <|
    match s.phase with
    | .config =>
      match enterDecode s with
      | some e => raise e s
      | none => pushRow s
    | .decode => pushRow s
    | .idle | .done | .failed => raise .seq s

end Sys2Proof.Machine
end

