-- ==== Sys2Proof/Machine/Dispatch.lean ====
section
/-! DEFINITION. One arm per command: "perform ins by its rule" of 60_exceptions.md R225. -/

namespace Sys2Proof.Machine

def exec (i : Instr) (s : State) : Host.Outcome State Fault Refusal :=
  match i with
  -- 40_session.md
  | .nop => Sys2Proof.Machine.execNop s
  | .reset => Sys2Proof.Machine.execReset s
  | .cfg bpp bf => Sys2Proof.Machine.execCfg bpp bf s
  | .maskWr ch => Sys2Proof.Machine.execMaskWr ch s
  | .palPush => Sys2Proof.Machine.execPalPush s
  | .rowPush => Sys2Proof.Machine.execRowPush s
  -- 43_readback.md
  | .palRd => Sys2Proof.Machine.execPalRd s
  | .pixRd => Sys2Proof.Machine.execPixRd s
  | .idxRd => Sys2Proof.Machine.execIdxRd s
  -- 41_mask_channel.md
  | .maskAn => Sys2Proof.Machine.execMaskAn s
  | .chx16 => Sys2Proof.Machine.execChx16 s
  | .chx32 => Sys2Proof.Machine.execChx32 s
  -- 42_scanline_decoders.md
  | .dec1 => Sys2Proof.Machine.execDec1 s
  | .dec4 => Sys2Proof.Machine.execDec4 s
  | .dec8 => Sys2Proof.Machine.execDec8 s
  | .dec16 => Sys2Proof.Machine.execDec16 s
  | .dec24 => Sys2Proof.Machine.execDec24 s
  | .dec32 => Sys2Proof.Machine.execDec32 s

end Sys2Proof.Machine
end

