-- ==== Sys2Proof/Machine/Bus.lean ====
section
/-! DEFINITION. The register window and the host's accesses to it (10_state.md R20, 20_memory.md R60 to R65), the command step
of a CMD write (60_exceptions.md R225), and the inputs of State.pending. Step.lean only calls `takeInput`. -/

namespace Sys2Proof.Machine

/-- The registers of the window (10_state.md R20). -/
inductive Reg where
  | id
  | status
  | cmd
  | arg0
  | arg1
  | arg2
  | res0
  | res1
  | res2
  | cfgMode
  | cfgWidth
  | cfgHeight
  | clrUsed
  | palLen
  | palCnt
  | rowBytes
  | rowWptr
  | srcRow
  | rowsTotal
  | mask (c : Channel)
  | msw (c : Channel)
  | capWidth
  | capHeight
  | capRowbuf
deriving DecidableEq, Repr

/-- The register at a byte offset of the window; every other offset is reserved (R20). -/
def regAt (off : Nat) : Option Reg :=
  match off with
  | 0x000 => some .id
  | 0x004 => some .status
  | 0x008 => some .cmd
  | 0x00C => some .arg0
  | 0x010 => some .arg1
  | 0x014 => some .arg2
  | 0x018 => some .res0
  | 0x01C => some .res1
  | 0x020 => some .res2
  | 0x024 => some .cfgMode
  | 0x028 => some .cfgWidth
  | 0x02C => some .cfgHeight
  | 0x030 => some .clrUsed
  | 0x034 => some .palLen
  | 0x038 => some .palCnt
  | 0x03C => some .rowBytes
  | 0x040 => some .rowWptr
  | 0x044 => some .srcRow
  | 0x048 => some .rowsTotal
  | 0x050 => some (.mask .r)
  | 0x054 => some (.mask .g)
  | 0x058 => some (.mask .b)
  | 0x05C => some (.mask .a)
  | 0x060 => some (.msw .r)
  | 0x064 => some (.msw .g)
  | 0x068 => some (.msw .b)
  | 0x06C => some (.msw .a)
  | 0x070 => some .capWidth
  | 0x074 => some .capHeight
  | 0x078 => some .capRowbuf
  | _ => none

/-- What a register reads as (10_state.md R21 to R39). CFG_MODE and the six registers under `sessionRead` read 0 outside a
configured session; PAL_CNT, ROW_WPTR, SRC_ROW and MASK_c have no such rule (R32, R34, R35, R37). -/
def readReg (r : Reg) (s : State) : Word :=
  match r with
  | .id => 0x424D0001
  | .status => statusWord s
  | .cmd => 0
  | .arg0 => s.arg0
  | .arg1 => s.arg1
  | .arg2 => s.arg2
  | .res0 => s.res0
  | .res1 => s.res1
  | .res2 => s.res2
  | .cfgMode => modeWord s
  | .cfgWidth => sessionRead s.cfgWidth s
  | .cfgHeight => sessionRead s.cfgHeight s
  | .clrUsed => sessionRead s.clrUsed s
  | .palLen => sessionRead s.palLen s
  | .palCnt => s.palCnt
  | .rowBytes => sessionRead s.rowBytes s
  | .rowWptr => s.rowWptr
  | .srcRow => s.srcRow
  | .rowsTotal => sessionRead s.rowsTotal s
  | .mask c => maskOf c s
  | .msw c => analysisWord (maskOf c s)
  | .capWidth => BitVec.ofNat 32 s.params.maxWidth
  | .capHeight => BitVec.ofNat 32 s.params.maxHeight
  | .capRowbuf => BitVec.ofNat 32 s.params.rowbufBytes

/-- MemRead(off, 4): the register's value; a reserved offset reads 0 (20_memory.md R62, R63). -/
def memRead (off : Nat) (s : State) : Word :=
  match regAt off with
  | some r => readReg r s
  | none => 0

/-- performCmd(w) of 60_exceptions.md R225. The FAILED filter stands in `illegalWord` and in each meaning (log 11). -/
def performCmd (w : Word) (s : State) : Result :=
  match decode w with
  | .legal i => exec i s
  | .illegal _ => illegalWord s

/-- MemWrite(off, 4, v): CMD performs the command, ARG0 to ARG2 store the value, everything else ignores the write
(20_memory.md R62, R63). -/
def memWrite (off : Nat) (v : Word) (s : State) : Result :=
  match regAt off with
  | some .cmd => performCmd v s
  | some .arg0 => .next { s with arg0 := v }
  | some .arg1 => .next { s with arg1 := v }
  | some .arg2 => .next { s with arg2 := v }
  | _ => .next s

/-- An access the block has a step for, by offset: in the window, 32 bits wide, 4-byte aligned (R61, R65). -/
def onBus (width addr : Nat) (s : State) (k : Nat → Result) : Result :=
  if addr < s.params.baseAddr ∨ s.params.baseAddr + Config.windowBytes ≤ addr then .refused .outsideWindow
  else if width ≠ 4 ∨ (addr - s.params.baseAddr) % 4 ≠ 0 then .fault .outsideContract
  else k (addr - s.params.baseAddr)

/-- One input taken (00_scope.md R15: every state change of the block is caused by one host access). A read changes nothing
but what the host is given (20_memory.md R63). -/
def takeInput (a : Access) (s : State) : Result :=
  match a with
  | .read width addr => onBus width addr s fun off => .next { s with readData := some (memRead off s) }
  | .write width addr v => onBus width addr s fun off => memWrite off v s
  | .hardwareReset => .next (hardwareReset s)

end Sys2Proof.Machine
end

