-- ==== Sys2Proof/Machine/Step.lean ====
section
/-! DEFINITION. One step of the machine: the block answers the oldest input waiting (00_scope.md R15), or is idle and keeps all
state (60_exceptions.md R241). -/

namespace Sys2Proof.Machine

/-- The oldest input is taken, in order (20_memory.md R74); with none waiting the block is idle (log 4). -/
def step (s : State) : Host.Outcome State Fault Refusal :=
  match s.pending with
  | [] => .next s
  | a :: rest => takeInput a { s with pending := rest }

/-- `s` with a write of the table row's word to CMD as its oldest input, so that the next step performs it; the bits
above `nbits` are 0 (log 4). -/
def State.withFetchWord (s : State) (nbits w : Nat) : State :=
  { s with pending := .write 4 (s.params.baseAddr + 0x008) (BitVec.ofNat 32 (w % 2 ^ nbits)) :: s.pending }

end Sys2Proof.Machine
end

