-- ==== Sys2Proof/Safety.lean ====
section
/-! DEFINITION. What the rules promise of every state a run reaches, and what counts as a safe run: the invariant of the block,
the bus contract a host keeps, and what two blocks may differ in without anyone seeing it. -/

namespace Sys2Proof.Machine

/-- The session registers hold 0 and IMG is empty: no session (10_state.md R44, 40_session.md R103). -/
structure Cleared (s : State) : Prop where
  maskValid : s.maskValid = 0
  indexed : s.indexed = false
  bpp : s.bpp = 0
  bf : s.bf = false
  cfgWidth : s.cfgWidth = 0
  cfgHeight : s.cfgHeight = 0
  clrUsed : s.clrUsed = 0
  palLen : s.palLen = 0
  palCnt : s.palCnt = 0
  rowBytes : s.rowBytes = 0
  rowWptr : s.rowWptr = 0
  srcRow : s.srcRow = 0
  rowsTotal : s.rowsTotal = 0
  masks : ∀ c, maskOf c s = 0
  img : s.img = []

/-- Row y of the image has been decoded: the first SRC_ROW source rows, placed by R162. -/
def rowDecoded (s : State) (y : Nat) : Prop :=
  if 0 < s.cfgHeight.toInt then
    s.cfgHeight.toInt - (s.srcRow.toNat : Int) ≤ (y : Int) ∧ (y : Int) < s.cfgHeight.toInt
  else y < s.srcRow.toNat

/-- The pixel kinds a depth stores (00_scope.md R12; alpha 41_mask_channel.md R139). -/
def pixelFits (bpp : Nat) : Pixel → Prop
  | .idx i => indexedDepth bpp = true ∧ i.toNat < 2 ^ bpp
  | .c8 _ _ _ a => bpp = 32 ∨ bpp = 24 ∧ a = 0xFF
  | .c16 _ _ _ a => bpp = 16 ∧ a = 0xFFFF

/-- The registers and the image of a session that CFG accepted (10_state.md R27 to R37, R42). -/
structure Configured (s : State) : Prop where
  depth : supportedDepth s.bpp.toNat = true
  indexed : s.indexed = indexedDepth s.bpp.toNat
  width : 1 ≤ s.cfgWidth.toInt ∧ s.cfgWidth.toInt ≤ (s.params.maxWidth : Int)
  height : s.cfgHeight.toInt ≠ 0 ∧ s.cfgHeight.toInt.natAbs ≤ s.params.maxHeight
  palLen : s.palLen = palLenOf s.bpp.toNat s.clrUsed
  palCnt : s.palCnt.toNat ≤ s.palLen.toNat
  rowBytes : s.rowBytes.toNat = rowBytesOf s.cfgWidth.toNat s.bpp.toNat
  rowFits : s.rowBytes.toNat ≤ s.params.rowbufBytes
  rowWptr : s.rowWptr.toNat % 4 = 0 ∧ s.rowWptr.toNat ≤ s.rowBytes.toNat
  srcRow : s.srcRow.toNat ≤ s.rowsTotal.toNat
  rowsTotal : s.rowsTotal.toNat = s.cfgHeight.toInt.natAbs
  masksDefault : s.bf = false → s.maskValid = 0xF ∧ ∀ c, maskOf c s = defaultMask s.bpp.toNat c
  masksAwaited : s.bf = true → ∀ c, s.maskValid.getLsbD (channelIndex c) = false → maskOf c s = 0
  imgWritten : ∀ x y, x < s.cfgWidth.toNat → rowDecoded s y →
    ∃ p, imgCell x y s = some p ∧ pixelFits s.bpp.toNat p
  imgOnly : ∀ k p, Memory.find k s.img = some p →
    ∃ x y, k = imgKey x y ∧ x < s.cfgWidth.toNat ∧ rowDecoded s y

/-- What each phase says of the session (10_state.md R24, 40_session.md R110, 42_scanline_decoders.md R163). A FAILED session
holds what it failed with, unless CFG failed (60_exceptions.md R224); what a host reads is `readReg` (R27, log 10). -/
def PhaseInv (s : State) : Prop :=
  match s.phase with
  | .idle => Cleared s
  | .config => Configured s ∧ s.rowWptr = 0 ∧ s.srcRow = 0
  | .decode => Configured s ∧ enterDecode s = none ∧ s.srcRow.toNat < s.rowsTotal.toNat
  | .done => Configured s ∧ enterDecode s = none ∧ s.srcRow = s.rowsTotal ∧ s.rowWptr = 0
  | .failed => Cleared s ∨ Configured s

/-- The invariant of the block: every step keeps it, and every reset state has it. -/
structure Inv (s : State) : Prop where
  params : s.params.Wf
  memory : s.memWf = true
  paletteBound : ∀ e ∈ s.palette, e.1 < Config.palDepth
  rowbufBound : ∀ e ∈ s.rowbuf, e.1 < s.params.rowbufBytes
  failedHasError : s.phase = .failed ↔ s.err ≠ .noError
  session : PhaseInv s

/-- The bus contract (20_memory.md R61, R65): a 32-bit, 4-byte-aligned access to the window. A hardware reset is no access. -/
def InContract (p : Params) : Access → Prop
  | .read width addr => width = 4 ∧ p.baseAddr ≤ addr ∧ addr < p.baseAddr + 4096 ∧ (addr - p.baseAddr) % 4 = 0
  | .write width addr _ => width = 4 ∧ p.baseAddr ≤ addr ∧ addr < p.baseAddr + 4096 ∧ (addr - p.baseAddr) % 4 = 0
  | .hardwareReset => True

/-- Two states that agree in everything but palette entries not yet pushed and row bytes not yet pushed
(70_reset_and_hazards.md R251: those "can never be observed"). -/
structure SameButUnpushed (s t : State) : Prop where
  registers : t = { s with palette := t.palette, rowbuf := t.rowbuf }
  pushedEntries : ∀ i, i < s.palCnt.toNat → i < Config.palDepth → palEntry i t = palEntry i s
  pushedBytes : ∀ k, k < s.rowWptr.toNat → rowByte k t = rowByte k s

/-- What moves the session phase (10_state.md R24): a hardware reset, or the word written to CMD. -/
inductive Cause where
  | hardwareReset
  | word (d : Decoded)
deriving DecidableEq, Repr

/-- The cause an input is: a CMD write performs the word it carries, and no other access moves the phase. -/
def causeOf (p : Params) : Access → Option Cause
  | .hardwareReset => some .hardwareReset
  | .write _ addr v => if addr = p.baseAddr + 0x008 then some (.word (decode v)) else none
  | .read _ _ => none

/-- The six DECn commands. -/
def decoders : List Instr := [.dec1, .dec4, .dec8, .dec16, .dec24, .dec32]

/-- The table of 10_state.md R24, row by row: the phase moves from the first to the second by the cause. -/
inductive PhaseMove : Phase → Phase → Cause → Prop where
  | toIdle (p : Phase) (c : Cause) (h : c = .hardwareReset ∨ c = .word (.legal .reset)) : PhaseMove p .idle c
  | cfgPasses (p : Phase) (bpp : Nat) (bf : Bool) : PhaseMove p .config (.word (.legal (.cfg bpp bf)))
  | cfgFails (p : Phase) (bpp : Nat) (bf : Bool) : PhaseMove p .failed (.word (.legal (.cfg bpp bf)))
  | errorEntry (p : Phase) (d : Decoded) (h : p ≠ .failed) : PhaseMove p .failed (.word d)
  | decodeEntry (i : Instr) (h : i ∈ Instr.rowPush :: decoders) : PhaseMove .config .decode (.word (.legal i))
  | lastRow (i : Instr) (h : i ∈ decoders) : PhaseMove .decode .done (.word (.legal i))

end Sys2Proof.Machine
end

