-- ==== Sys2Proof/Certificates/Slice0/Obligations.lean ====
section
/-! DEFINITION. The statements about the model, for the provers. Each docstring names the rules of spec/ it rests on. -/

open Sys2Proof Sys2Proof.Machine

/-! ## Encoding (30_encoding.md) -/

/-- R80, R81, R83, R84: no bit of a command word is dropped. -/
def Obligations.DecodeOfEncodeIsTheInstruction : Prop :=
  ∀ i : Instr, WellFormed i → decode (encode i) = .legal i

/-- R84, R85: a word that is a command is the encoding of that command and of no other. -/
def Obligations.LegalWordIsTheEncodingOfItsInstruction : Prop :=
  ∀ (w : Word) (i : Instr), decode w = .legal i → WellFormed i ∧ encode i = w

/-- R85 (with R81): the illegal words are those with an unassigned OP and those with a nonzero reserved field. -/
def Obligations.IllegalWordsAreTheUnassignedAndTheReserved : Prop :=
  ∀ w : Word,
    ((decode w = .illegal .unassignedOpcode) ↔
      (0x0C ≤ w.toNat / 2 ^ 24 ∧ w.toNat / 2 ^ 24 ≤ 0x0F) ∨ 0x16 ≤ w.toNat / 2 ^ 24) ∧
    ((decode w = .illegal .reservedField) ↔
      (w.toNat / 2 ^ 24 = 0x02 ∧ w.toNat % 2 ^ 24 / 2 ^ 9 ≠ 0) ∨
      (w.toNat / 2 ^ 24 = 0x03 ∧ w.toNat % 2 ^ 24 / 2 ^ 2 ≠ 0) ∨
      ((w.toNat / 2 ^ 24 ≤ 0x01 ∨ (0x04 ≤ w.toNat / 2 ^ 24 ∧ w.toNat / 2 ^ 24 ≤ 0x0B) ∨
          (0x10 ≤ w.toNat / 2 ^ 24 ∧ w.toNat / 2 ^ 24 ≤ 0x15)) ∧
        w.toNat % 2 ^ 24 ≠ 0))

/-- 95_test_vectors.md 2.7 and R88: words written out from the tables decode to what the tables say. -/
def Obligations.WordsOfTheTablesDecodeAsTheySay : Prop :=
  decode 0x00000000 = .legal .nop ∧
  decode 0x01000000 = .legal .reset ∧
  decode 0x02000110 = .legal (.cfg 16 true) ∧
  decode 0x02000002 = .legal (.cfg 2 false) ∧
  decode 0x03000003 = .legal (.maskWr .a) ∧
  decode 0x07000000 = .legal .pixRd ∧
  decode 0x0B000000 = .legal .chx32 ∧
  decode 0x15000000 = .legal .dec32 ∧
  decode 0x00000001 = .illegal .reservedField ∧
  decode 0x02000200 = .illegal .reservedField ∧
  decode 0x03000004 = .illegal .reservedField ∧
  decode 0x0F000000 = .illegal .unassignedOpcode ∧
  decode 0x16000000 = .illegal .unassignedOpcode

/-! ## The bus and the command step (20_memory.md, 60_exceptions.md) -/

/-- R22, R225: a CMD write performs the command its word decodes to. The model takes the input off its list (log 4). -/
def Obligations.CmdWritePerformsTheDecodedCommand : Prop :=
  ∀ (s : State) (rest : List Access) (w : Word) (i : Instr),
    s.pending = .write 4 (s.params.baseAddr + 0x008) w :: rest → decode w = .legal i →
    step s = exec i { s with pending := rest }

/-- R85, R225: an illegal word raises ILLEGAL, and is ignored in FAILED. -/
def Obligations.IllegalWordRaisesIllegalUnlessFailed : Prop :=
  ∀ (s : State) (rest : List Access) (w : Word) (why : Illegal),
    s.pending = .write 4 (s.params.baseAddr + 0x008) w :: rest → decode w = .illegal why →
    step s = .next
      (if s.phase = .failed then { s with pending := rest }
       else { s with pending := rest, err := .illegal, phase := .failed })

/-- R225: in FAILED every command other than NOP, RESET and CFG is ignored. -/
def Obligations.FailedIgnoresAllButNopResetCfg : Prop :=
  ∀ (s : State) (i : Instr), s.phase = .failed → i ≠ .nop → i ≠ .reset → (∀ bpp bf, i ≠ .cfg bpp bf) →
    exec i s = .next s

/-- R62, R63: a MemRead of the window returns the register's value and changes nothing else. The value is held in the
model's own readData (log 5). -/
def Obligations.MemReadReturnsTheRegisterAndChangesNothing : Prop :=
  ∀ (s : State) (rest : List Access) (off : Nat),
    s.pending = .read 4 (s.params.baseAddr + off) :: rest → off < 4096 → off % 4 = 0 →
    step s = .next { s with pending := rest, readData := some (memRead off s) }

/-- R20, R63: the register map. Every register reads at its offset, and every other offset reads 0. The session registers read
what they hold in a configured session, and 0 in IDLE and FAILED (R28 to R31, R33, R36, with R27). That in FAILED they still
HOLD their values, so that the 0 is the read's alone, is the model's reading (log 10), and nothing here rests on it. -/
def Obligations.WindowReadsTheRegisterMap : Prop :=
  ∀ s : State,
    let inSession (v : Word) : Word := if s.phase = .idle ∨ s.phase = .failed then 0 else v
    memRead 0x000 s = 0x424D0001 ∧ memRead 0x008 s = 0 ∧
    memRead 0x00C s = s.arg0 ∧ memRead 0x010 s = s.arg1 ∧ memRead 0x014 s = s.arg2 ∧
    memRead 0x018 s = s.res0 ∧ memRead 0x01C s = s.res1 ∧ memRead 0x020 s = s.res2 ∧
    memRead 0x028 s = inSession s.cfgWidth ∧ memRead 0x02C s = inSession s.cfgHeight ∧
    memRead 0x030 s = inSession s.clrUsed ∧ memRead 0x034 s = inSession s.palLen ∧ memRead 0x038 s = s.palCnt ∧
    memRead 0x03C s = inSession s.rowBytes ∧ memRead 0x040 s = s.rowWptr ∧ memRead 0x044 s = s.srcRow ∧
    memRead 0x048 s = inSession s.rowsTotal ∧
    memRead 0x050 s = s.maskR ∧ memRead 0x054 s = s.maskG ∧ memRead 0x058 s = s.maskB ∧ memRead 0x05C s = s.maskA ∧
    (s.params.Wf → (memRead 0x070 s).toNat = s.params.maxWidth ∧ (memRead 0x074 s).toNat = s.params.maxHeight ∧
      (memRead 0x078 s).toNat = s.params.rowbufBytes) ∧
    (∀ off, off = 0x04C ∨ 0x078 < off ∨ off % 4 ≠ 0 → memRead off s = 0)

/-- R23, R27, R221: the fields of STATUS and CFG_MODE, and their reserved bits; the whole of CFG_MODE reads 0 in IDLE and
FAILED (R27; what it holds in FAILED is log 10's, and not spoken of). -/
def Obligations.StatusAndModeWordsHoldTheirFields : Prop :=
  ∀ s : State,
    (memRead 0x004 s).extractLsb' 0 3 =
      (match s.phase with | .idle => 0 | .config => 1 | .decode => 2 | .done => 3 | .failed => 4) ∧
    (memRead 0x004 s).getLsbD 3 = false ∧
    (memRead 0x004 s).extractLsb' 4 4 = s.maskValid ∧
    (memRead 0x004 s).extractLsb' 8 4 =
      (match s.err with
        | .noError => 0 | .fmtDepth => 1 | .fmtGeom => 2 | .capacity => 3 | .ioPalette => 4 | .ioMasks => 5
        | .ioRow => 6 | .mask => 7 | .seq => 8 | .illegal => 9 | .range => 10 | .palIndex => 11) ∧
    (memRead 0x004 s).getLsbD 12 = s.indexed ∧
    (memRead 0x004 s).extractLsb' 13 19 = 0 ∧
    (s.phase ≠ .idle → s.phase ≠ .failed →
      (memRead 0x024 s).extractLsb' 0 8 = s.bpp ∧ (memRead 0x024 s).getLsbD 8 = s.bf) ∧
    (memRead 0x024 s).extractLsb' 9 23 = 0 ∧
    (s.phase = .idle ∨ s.phase = .failed → memRead 0x024 s = 0)

/-- R38: MSW_c is the analysis of MASK_c, at every moment. -/
def Obligations.AnalysisRegistersFollowTheMasks : Prop :=
  ∀ (s : State) (c : Channel),
    (memRead (0x060 + 4 * channelIndex c) s).extractLsb' 0 8 = BitVec.ofNat 8 (maskShift (memRead (0x050 + 4 * channelIndex c) s)) ∧
    (memRead (0x060 + 4 * channelIndex c) s).extractLsb' 8 8 = BitVec.ofNat 8 (maskWidth (memRead (0x050 + 4 * channelIndex c) s)) ∧
    (memRead (0x060 + 4 * channelIndex c) s).getLsbD 16 = contig (memRead (0x050 + 4 * channelIndex c) s) ∧
    (memRead (0x060 + 4 * channelIndex c) s).extractLsb' 17 15 = 0

/-- R63: a write to ARG0, ARG1 or ARG2 only stores the value; a write to a reserved offset or a read-only register has no
effect. -/
def Obligations.WritesOtherThanCmdStoreOrAreIgnored : Prop :=
  ∀ (s : State) (rest : List Access) (off : Nat) (v : Word),
    s.pending = .write 4 (s.params.baseAddr + off) v :: rest → off < 4096 → off % 4 = 0 → off ≠ 0x008 →
    step s = .next
      (if off = 0x00C then { s with pending := rest, arg0 := v }
       else if off = 0x010 then { s with pending := rest, arg1 := v }
       else if off = 0x014 then { s with pending := rest, arg2 := v }
       else { s with pending := rest })

/-- R65: a narrower, wider or misaligned access to the window has no step. -/
def Obligations.AccessOutsideTheContractHasNoStep : Prop :=
  ∀ (s : State) (rest : List Access) (off width : Nat) (v : Word),
    off < 4096 → (width ≠ 4 ∨ off % 4 ≠ 0) →
    (s.pending = .read width (s.params.baseAddr + off) :: rest → step s = .fault .outsideContract) ∧
    (s.pending = .write width (s.params.baseAddr + off) v :: rest → step s = .fault .outsideContract)

/-- R15, R74, R241: with no input the block keeps all state; otherwise a step takes the oldest input and leaves the others, and
no step changes the parameters. The input list is the model's own (log 4). -/
def Obligations.StepTakesInputsInOrder : Prop :=
  (∀ s : State, s.pending = [] → step s = .next s) ∧
  ∀ s t : State, step s = .next t → t.pending = s.pending.tail ∧ t.params = s.params

/-- R44, R250: what a hardware reset leaves, read off the window, and IMG all None. PAL and ROWBUF are unspecified there and
not spoken of here. -/
def Obligations.HardwareResetLeavesTheResetValues : Prop :=
  ∀ (s : State) (rest : List Access), s.pending = .hardwareReset :: rest →
    ∃ t, step s = .next t ∧ t.params = s.params ∧
      memRead 0x004 t = 0 ∧
      (∀ off, 0x00C ≤ off → off < 0x060 → memRead off t = 0) ∧
      (∀ c : Channel, memRead (0x060 + 4 * channelIndex c) t = 0x00010000) ∧
      (∀ x y, imgCell x y t = none)

/-! ## The whole machine -/

/-- R44 with R6: every reset state, whatever the parameters, meets the invariant. -/
def Obligations.ResetMeetsTheInvariant : Prop :=
  ∀ p : Params, p.Wf → Inv (State.resetWith p)

/-- Every step of the block keeps the invariant: register ranges, phase facts, the decoded part of the image, canonical
memories (10_state.md R24 to R44). -/
def Obligations.EveryStepKeepsTheInvariant : Prop :=
  ∀ s t : State, Inv s → step s = .next t → Inv t

/-- R64, R208, R264: a host that keeps the bus contract is never stopped, for any number of steps. -/
def Obligations.HostKeepingTheContractIsNeverStopped : Prop :=
  ∀ (k : Nat) (s : State), Inv s → (∀ a ∈ s.pending, InContract s.params a) →
    ∃ t, Sys2Proof.core.run k s = .next t ∧ Inv t

/-- The internal memories keep their canonical form in every step, from any state that has it (log 18). -/
def Obligations.EveryStepKeepsMemoriesCanonical : Prop :=
  ∀ s t : State, s.memWf = true → step s = .next t → t.memWf = true

/-- Canonical memories that read alike are the same data (log 18). -/
def Obligations.CanonicalRowBuffersThatReadAlikeAreEqual : Prop :=
  ∀ m n : List Host.Cell, Memory.wf unwrittenByte m = true → Memory.wf unwrittenByte n = true →
    (∀ k, Memory.get unwrittenByte k m = Memory.get unwrittenByte k n) → m = n

/-- R24: the session phase moves only by the table. -/
def Obligations.PhaseMovesOnlyByTheTable : Prop :=
  ∀ (s t : State) (a : Access) (rest : List Access), Inv s → s.pending = a :: rest → step s = .next t →
    t.phase = s.phase ∨ ∃ c, causeOf s.params a = some c ∧ PhaseMove s.phase t.phase c

/-- R225, R226, R227: a FAILED session keeps its first error, and stays FAILED, until a hardware reset, RESET or CFG. -/
def Obligations.FailedSessionKeepsItsFirstError : Prop :=
  ∀ (s t : State) (a : Access) (rest : List Access),
    s.phase = .failed → s.pending = a :: rest → step s = .next t → a ≠ .hardwareReset →
    causeOf s.params a ≠ some (.word (.legal .reset)) →
    (∀ bpp bf, causeOf s.params a ≠ some (.word (.legal (.cfg bpp bf)))) →
    t.phase = .failed ∧ t.err = s.err

/-- R25: no command writes ARG0 to ARG2. (Nor the parameters, nor the model's own fields.) -/
def Obligations.NoCommandWritesTheArguments : Prop :=
  ∀ (i : Instr) (s t : State), exec i s = .next t →
    t.arg0 = s.arg0 ∧ t.arg1 = s.arg1 ∧ t.arg2 = s.arg2 ∧ t.params = s.params ∧ t.pending = s.pending ∧
    t.readData = s.readData

/-- R26: RES0 to RES2 are written only by a command that produces a result, and not when it raises an error. -/
def Obligations.OnlyResultCommandsWriteTheResults : Prop :=
  ∀ (i : Instr) (s t : State), exec i s = .next t →
    i ∉ [Instr.palRd, .pixRd, .idxRd, .maskAn, .chx16, .chx32] ∨ t.phase = .failed →
    t.res0 = s.res0 ∧ t.res1 = s.res1 ∧ t.res2 = s.res2

/-- R40, R41, R42: only PAL_PUSH writes PAL, only ROW_PUSH writes ROWBUF, only DECn, CFG and RESET write IMG. -/
def Obligations.EachStoreIsWrittenOnlyByItsCommands : Prop :=
  ∀ (i : Instr) (s t : State), exec i s = .next t →
    (i ≠ .palPush → ∀ k, palEntry k t = palEntry k s) ∧
    (i ≠ .rowPush → ∀ k, rowByte k t = rowByte k s) ∧
    (i ∉ decoders → i ≠ .reset → (∀ bpp bf, i ≠ .cfg bpp bf) → ∀ x y, imgCell x y t = imgCell x y s)

/-- R10, R224: a failing command other than CFG writes ERR and PHASE and nothing else. -/
def Obligations.FailingCommandChangesOnlyErrAndPhase : Prop :=
  ∀ (i : Instr) (s t : State), exec i s = .next t → s.phase ≠ .failed → t.phase = .failed →
    (∀ bpp bf, i ≠ .cfg bpp bf) → t = { s with err := t.err, phase := .failed } ∧ t.err ≠ .noError

/-- R251: the contents PAL and ROWBUF have before they are pushed are never observed: two blocks that differ in nothing else
stay so, and return the same values. -/
def Obligations.UnpushedContentsAreNeverObserved : Prop :=
  ∀ s t s' : State, Inv s → SameButUnpushed s t → step s = .next s' →
    ∃ t', step t = .next t' ∧ SameButUnpushed s' t'

/-! ## Session, palette and mask loading (40_session.md) -/

/-- R100: NOP changes nothing, in every phase; every other word with OP 0 is illegal, and raises ILLEGAL outside FAILED. -/
def Obligations.NopChangesNothing : Prop :=
  (∀ s : State, exec .nop s = .next s) ∧ decode 0x00000000 = .legal .nop ∧
  (∀ imm : BitVec 24, imm ≠ 0 → (∃ why, decode (0#8 ++ imm : BitVec 32) = .illegal why) ∧
    ∀ s : State, s.phase ≠ .failed →
      performCmd (0#8 ++ imm : BitVec 32) s = .next { s with err := .illegal, phase := .failed })

/-- R101, R103: RESET clears the session in every phase and keeps ARG, RES, PAL and ROWBUF. -/
def Obligations.ResetClearsTheSession : Prop :=
  decode 0x01000000 = .legal .reset ∧
  ∀ s : State, exec .reset s = .next { s with
    bpp := 0, bf := false, cfgWidth := 0, cfgHeight := 0, clrUsed := 0
    palLen := 0, palCnt := 0, rowBytes := 0, rowWptr := 0, srcRow := 0, rowsTotal := 0
    maskR := 0, maskG := 0, maskB := 0, maskA := 0
    phase := .idle, err := .noError, maskValid := 0, indexed := false
    img := [] }

/-- R102 with R31, R132, R160: a CFG that passes its checks, from every phase. -/
def Obligations.CfgStartsASession : Prop :=
  ∀ (s : State) (bpp : Nat) (bf : Bool),
    bpp ∈ [1, 4, 8, 16, 24, 32] → 0 < s.arg0.toInt → s.arg1.toInt ≠ 0 →
    s.arg0.toInt ≤ (s.params.maxWidth : Int) → s.arg1.toInt.natAbs ≤ s.params.maxHeight →
    (s.arg0.toNat * bpp + 31) / 32 * 4 ≤ s.params.rowbufBytes → s.params.Wf →
    ∃ t, exec (.cfg bpp bf) s = .next t ∧
      t.phase = .config ∧ t.err = .noError ∧ t.bpp.toNat = bpp ∧ t.bf = bf ∧
      t.cfgWidth = s.arg0 ∧ t.cfgHeight = s.arg1 ∧ t.clrUsed = s.arg2 ∧
      (bpp > 8 ∧ s.arg2 = 0 → t.palLen = 0) ∧
      (s.arg2 ≠ 0 → t.palLen = s.arg2) ∧
      (bpp ≤ 8 ∧ s.arg2 = 0 → t.palLen.toNat = 2 ^ bpp) ∧
      t.palCnt = 0 ∧ t.rowBytes.toNat = (s.arg0.toNat * bpp + 31) / 32 * 4 ∧ t.rowWptr = 0 ∧
      t.srcRow = 0 ∧ t.rowsTotal.toNat = s.arg1.toInt.natAbs ∧
      t.maskR = (if bf then 0 else if bpp = 16 then 0x0000F800 else if bpp = 32 then 0x00FF0000 else 0) ∧
      t.maskG = (if bf then 0 else if bpp = 16 then 0x000007E0 else if bpp = 32 then 0x0000FF00 else 0) ∧
      t.maskB = (if bf then 0 else if bpp = 16 then 0x0000001F else if bpp = 32 then 0x000000FF else 0) ∧
      t.maskA = (if bf then 0 else if bpp = 32 then 0xFF000000 else 0) ∧
      t.maskValid = (if bf then 0 else 0xF) ∧
      (t.indexed = true ↔ bpp = 1 ∨ bpp = 4 ∨ bpp = 8) ∧
      (∀ x y, imgCell x y t = none) ∧
      t.arg0 = s.arg0 ∧ t.arg1 = s.arg1 ∧ t.arg2 = s.arg2 ∧ t.res0 = s.res0 ∧ t.res1 = s.res1 ∧ t.res2 = s.res2 ∧
      t.palette = s.palette ∧ t.rowbuf = s.rowbuf ∧ t.params = s.params ∧ t.pending = s.pending ∧
      t.readData = s.readData

/-- R102, R103, R223, R224: a CFG that fails clears the session and reports the first check that fails. -/
def Obligations.CfgThatFailsClearsAndReportsTheFirstCheck : Prop :=
  ∀ (s : State) (bpp : Nat) (bf : Bool) (e : ErrCode),
    ((e = .fmtDepth ∧ bpp ∉ [1, 4, 8, 16, 24, 32]) ∨
     (e = .fmtGeom ∧ bpp ∈ [1, 4, 8, 16, 24, 32] ∧ (s.arg0.toInt ≤ 0 ∨ s.arg1.toInt = 0)) ∨
     (e = .capacity ∧ bpp ∈ [1, 4, 8, 16, 24, 32] ∧ 0 < s.arg0.toInt ∧ s.arg1.toInt ≠ 0 ∧
       ((s.params.maxWidth : Int) < s.arg0.toInt ∨ s.params.maxHeight < s.arg1.toInt.natAbs ∨
         s.params.rowbufBytes < (s.arg0.toNat * bpp + 31) / 32 * 4))) →
    exec (.cfg bpp bf) s = .next { s with
      bpp := 0, bf := false, cfgWidth := 0, cfgHeight := 0, clrUsed := 0
      palLen := 0, palCnt := 0, rowBytes := 0, rowWptr := 0, srcRow := 0, rowsTotal := 0
      maskR := 0, maskG := 0, maskB := 0, maskA := 0
      phase := .failed, err := e, maskValid := 0, indexed := false
      img := [] }

/-- R104: MASK_WR in CONFIG with BF = 1 loads MASK_ch and its valid bit, and nothing else; MSW_ch shows its analysis. -/
def Obligations.MaskWrLoadsOneMask : Prop :=
  ∀ (s : State) (ch : Channel), s.phase = .config → s.bf = true →
    ∃ t, exec (.maskWr ch) s = .next t ∧
      maskOf ch t = s.arg0 ∧ (∀ c, c ≠ ch → maskOf c t = maskOf c s) ∧
      (∀ c, t.maskValid.getLsbD (channelIndex c) = (s.maskValid.getLsbD (channelIndex c) || decide (c = ch))) ∧
      memRead (0x060 + 4 * channelIndex ch) t = analysisWord s.arg0 ∧
      t = { s with
        maskR := t.maskR, maskG := t.maskG, maskB := t.maskB, maskA := t.maskA, maskValid := t.maskValid }

/-- R106: PAL_PUSH in CONFIG appends one entry; entries 256 and up are counted and discarded. -/
def Obligations.PalPushAppendsOneEntry : Prop :=
  ∀ s : State, s.phase = .config → s.palCnt.toNat < s.palLen.toNat →
    ∃ t, exec .palPush s = .next t ∧
      t.palCnt.toNat = s.palCnt.toNat + 1 ∧
      (∀ k, palEntry k t =
        if k = s.palCnt.toNat ∧ k < 256 then
          { r := s.arg0.extractLsb' 16 8, g := s.arg0.extractLsb' 8 8, b := s.arg0.extractLsb' 0 8 }
        else palEntry k s) ∧
      t = { s with palette := t.palette, palCnt := t.palCnt }

/-- R104, R106, R223: MASK_WR and PAL_PUSH raise SEQ outside CONFIG, MASK_WR with BF = 0, PAL_PUSH with the table full. -/
def Obligations.LoadingOutOfOrderRaisesSeq : Prop :=
  ∀ s : State, s.phase ≠ .failed →
    (s.phase ≠ .config ∨ s.bf = false →
      ∀ ch, exec (.maskWr ch) s = .next { s with err := .seq, phase := .failed }) ∧
    (s.phase ≠ .config ∨ s.palLen.toNat ≤ s.palCnt.toNat →
      exec .palPush s = .next { s with err := .seq, phase := .failed })

/-- R107 with R67: ROW_PUSH stores the four bytes of ARG0 at ROW_WPTR and leaves every other byte. -/
def Obligations.RowPushStoresFourBytes : Prop :=
  ∀ s : State, Inv s → (s.phase = .decode ∨ s.phase = .config ∧ enterDecode s = none) →
    s.rowWptr.toNat < s.rowBytes.toNat →
    ∃ t, exec .rowPush s = .next t ∧
      t.phase = .decode ∧ t.rowWptr.toNat = s.rowWptr.toNat + 4 ∧
      (∀ j, j < 4 → rowByte (s.rowWptr.toNat + j) t = s.arg0.extractLsb' (8 * j) 8) ∧
      (∀ k, k < s.rowWptr.toNat ∨ s.rowWptr.toNat + 4 ≤ k → rowByte k t = rowByte k s) ∧
      t = { s with phase := .decode, rowbuf := t.rowbuf, rowWptr := t.rowWptr }

/-- R107, R223: the errors of ROW_PUSH, in their order. -/
def Obligations.RowPushRefusesInOrder : Prop :=
  ∀ s : State,
    (s.phase = .idle ∨ s.phase = .done → exec .rowPush s = .next { s with err := .seq, phase := .failed }) ∧
    (∀ e, s.phase = .config → enterDecode s = some e →
      exec .rowPush s = .next { s with err := e, phase := .failed }) ∧
    (s.phase = .decode ∨ s.phase = .config ∧ enterDecode s = none → s.rowBytes.toNat ≤ s.rowWptr.toNat →
      exec .rowPush s = .next { s with err := .seq, phase := .failed })

/-- R110: the decode-entry check, each outcome exactly when the rule says. -/
def Obligations.EntryCheckFindsTheFirstFailure : Prop :=
  ∀ s : State,
    let used16 := [s.maskR, s.maskG, s.maskB]
    let used32 := [s.maskR, s.maskG, s.maskB, s.maskA]
    let badMask := (s.bpp = 16 ∧ ∃ m ∈ used16, contig m = false ∨ m.extractLsb' 16 16 ≠ 0) ∨
      (s.bpp = 32 ∧ ∃ m ∈ used32, contig m = false)
    (enterDecode s = some .ioPalette ↔ s.palCnt ≠ s.palLen) ∧
    (enterDecode s = some .ioMasks ↔ s.palCnt = s.palLen ∧ s.bf = true ∧ s.maskValid ≠ 0xF) ∧
    (enterDecode s = some .mask ↔ s.palCnt = s.palLen ∧ ¬(s.bf = true ∧ s.maskValid ≠ 0xF) ∧ badMask) ∧
    (enterDecode s = none ↔ s.palCnt = s.palLen ∧ ¬(s.bf = true ∧ s.maskValid ≠ 0xF) ∧ ¬badMask)

/-- R110 with R132: with BF = 0 the entry check never raises MASK. -/
def Obligations.DefaultMasksPassTheEntryCheck : Prop :=
  ∀ s : State, Inv s → s.phase = .config → s.bf = false → enterDecode s = none ∨ enterDecode s = some .ioPalette

/-! ## Analyzer and extractor (41_mask_channel.md) -/

/-- R130: analyze of zero is (0, 0); of any other mask, the lowest set bit and the run that starts there. -/
def Obligations.AnalyzeFindsTheLowestRun : Prop :=
  maskShift 0 = 0 ∧ maskWidth 0 = 0 ∧
  ∀ m : Word, m ≠ 0 →
    maskShift m ≤ 31 ∧ m.getLsbD (maskShift m) = true ∧ (∀ i, i < maskShift m → m.getLsbD i = false) ∧
    1 ≤ maskWidth m ∧ maskWidth m ≤ 32 - maskShift m ∧
    (∀ k, k < maskWidth m → m.getLsbD (maskShift m + k) = true) ∧
    (maskShift m + maskWidth m ≤ 31 → m.getLsbD (maskShift m + maskWidth m) = false)

/-- R131: contig holds exactly of zero and of the masks whose set bits form one unbroken run. -/
def Obligations.ContigIsOneUnbrokenRun : Prop :=
  ∀ m : Word, contig m = true ↔
    m = 0 ∨ ∃ lo hi, lo ≤ hi ∧ hi ≤ 31 ∧ ∀ i, m.getLsbD i = decide (lo ≤ i ∧ i ≤ hi)

/-- R134: extract is (p >> s) & (2^n - 1), and for a contiguous mask it is (p & m) >> s. -/
def Obligations.ExtractOfAContiguousMaskIsMaskThenShift : Prop :=
  ∀ p m : Word,
    extract p m = p.toNat / 2 ^ maskShift m % 2 ^ maskWidth m ∧
    (maskWidth m = 0 → extract p m = 0) ∧
    (contig m = true → extract p m = (p &&& m).toNat >>> maskShift m)

/-- R135: REPLICATE repeats the channel from bit 15 down, and the iterative form computes the same. -/
def Obligations.ReplicateRepeatsTheChannelDownward : Prop :=
  (∀ v, expand16 .replicate v 0 = 0) ∧
  ∀ v n : Nat, 1 ≤ n → n ≤ 16 → v < 2 ^ n →
    (∀ i, i < 16 → (expand16 .replicate v n).getLsbD i = v.testBit (n - 1 - (15 - i) % n)) ∧
    (let r1 := v <<< (16 - n)
     let r2 := if n < 16 then r1 ||| (r1 >>> n) else r1
     let r3 := if 2 * n < 16 then r2 ||| (r2 >>> (2 * n)) else r2
     let r4 := if 4 * n < 16 then r3 ||| (r3 >>> (4 * n)) else r3
     let r5 := if 8 * n < 16 then r4 ||| (r4 >>> (8 * n)) else r4
     (expand16 .replicate v n).toNat = r5)

/-- R136: the laws L1 to L5, for every EXPAND16 the model admits. `lawful` holds free values (log 2), and the laws hold
whatever they are. -/
def Obligations.EveryExpand16ObeysTheLaws : Prop :=
  ∀ (e : Expand16) (n v : Nat), 1 ≤ n → n ≤ 16 → v < 2 ^ n →
    (expand16 e v n).toNat / 2 ^ (16 - n) = v ∧
    expand16 e (2 ^ n - 1) n = 0xFFFF ∧
    expand16 e 0 n = 0 ∧
    (2 * n ≤ 16 → (expand16 e v n).toNat / 2 ^ (16 - 2 * n) % 2 ^ n = v) ∧
    (n = 16 → (expand16 e v n).toNat = v)

/-- R140: MASK_AN, in every phase but FAILED, where it is ignored. -/
def Obligations.MaskAnReportsTheAnalysis : Prop :=
  decode 0x09000000 = .legal .maskAn ∧
  ∀ s : State,
    (s.phase ≠ .failed →
      ∃ r : Word, exec .maskAn s = .next { s with res0 := r, res1 := 0, res2 := 0 } ∧
        r.toNat = maskShift s.arg0 + maskWidth s.arg0 * 2 ^ 8 + (contig s.arg0).toNat * 2 ^ 16) ∧
    (s.phase = .failed → exec .maskAn s = .next s)

/-- R141 with R134, R137: CHX16 widens one channel, or refuses a mask a 16-bit pixel cannot have. -/
def Obligations.Chx16WidensOneChannel : Prop :=
  ∀ s : State, s.phase ≠ .failed →
    (contig s.arg1 = true ∧ s.arg1.extractLsb' 16 16 = 0 →
      exec .chx16 s = .next { s with
        res0 := BitVec.ofNat 32
          (expand16 s.params.expand16 (s.arg0.toNat / 2 ^ maskShift s.arg1 % 2 ^ maskWidth s.arg1) (maskWidth s.arg1)).toNat
        res1 := 0, res2 := 0 }) ∧
    (contig s.arg1 = false ∨ s.arg1.extractLsb' 16 16 ≠ 0 →
      exec .chx16 s = .next { s with err := .mask, phase := .failed })

/-- R142 with R134, R138: CHX32 takes the low 8 bits of one channel, or refuses a non-contiguous mask. -/
def Obligations.Chx32TakesTheLowByteOfOneChannel : Prop :=
  ∀ s : State, s.phase ≠ .failed →
    (contig s.arg1 = true →
      exec .chx32 s = .next { s with
        res0 := BitVec.ofNat 32 (s.arg0.toNat / 2 ^ maskShift s.arg1 % 2 ^ maskWidth s.arg1 % 256)
        res1 := 0, res2 := 0 }) ∧
    (contig s.arg1 = false → exec .chx32 s = .next { s with err := .mask, phase := .failed })

/-! ## Scanline decoders (42_scanline_decoders.md) -/

/-- R160, R161: rowBytes is ceil(w * b / 32) * 4, a multiple of 4 that holds the pixel bits with at most 3 bytes of padding. -/
def Obligations.RowsArePaddedToFourBytes : Prop :=
  ∀ w b : Nat, 1 ≤ w → b ∈ [1, 4, 8, 16, 24, 32] →
    rowBytesOf w b = (w * b + 31) / 32 * 4 ∧ rowBytesOf w b % 4 = 0 ∧
    (w * b + 7) / 8 ≤ rowBytesOf w b ∧ rowBytesOf w b - (w * b + 7) / 8 ≤ 3

/-- R162: targetY, its range, and that it is its own inverse. -/
def Obligations.TargetRowIsItsOwnInverse : Prop :=
  ∀ (h : Int) (r : Nat), h ≠ 0 → r < h.natAbs →
    targetY h r = (if h > 0 then h - 1 - r else r) ∧
    0 ≤ targetY h r ∧ targetY h r < (h.natAbs : Int) ∧ targetY h (targetY h r).toNat = r

/-- R163 with R165, R170, R171, R172: DEC1, DEC4 and DEC8 of a full scanline write the row's indices, and nothing else but
SRC_ROW, ROW_WPTR and PHASE. -/
def Obligations.IndexedDecodersWriteTheRow : Prop :=
  ∀ (i : Instr) (n : Nat) (index : Nat → Byte) (s : State),
    (i = .dec1 ∧ n = 1 ∧ index = (fun x => (BitVec.ofBool ((rowByte (x / 8) s).getLsbD (7 - x % 8))).setWidth 8)) ∨
    (i = .dec4 ∧ n = 4 ∧ index = (fun x =>
      if x % 2 = 0 then ((rowByte (x / 2) s).extractLsb' 4 4).setWidth 8
      else ((rowByte (x / 2) s).extractLsb' 0 4).setWidth 8)) ∨
    (i = .dec8 ∧ n = 8 ∧ index = (fun x => rowByte x s)) →
    Inv s → s.phase = .decode → s.bpp.toNat = n → s.rowWptr = s.rowBytes →
    ∃ t, exec i s = .next t ∧
      (let y := if s.cfgHeight.toInt > 0 then (s.cfgHeight.toInt - 1 - s.srcRow.toNat).toNat else s.srcRow.toNat
       (∀ x, x < s.cfgWidth.toNat → imgCell x y t = some (.idx (index x))) ∧
       (∀ k, (∀ x, x < s.cfgWidth.toNat → k ≠ imgKey x y) → Memory.find k t.img = Memory.find k s.img)) ∧
      t = { s with
        img := t.img, srcRow := s.srcRow + 1, rowWptr := 0
        phase := if s.srcRow.toNat + 1 = s.rowsTotal.toNat then .done else .decode }

/-- R163 with R66, R137, R139, R173: DEC16 of a full scanline. -/
def Obligations.Dec16WritesTheRow : Prop :=
  ∀ s : State, Inv s → s.phase = .decode → s.bpp = 16 → s.rowWptr = s.rowBytes →
    ∃ t, exec .dec16 s = .next t ∧
      (let y := if s.cfgHeight.toInt > 0 then (s.cfgHeight.toInt - 1 - s.srcRow.toNat).toNat else s.srcRow.toNat
       (∀ x, x < s.cfgWidth.toNat →
         let p : Word := BitVec.ofNat 32 ((rowByte (2 * x) s).toNat + (rowByte (2 * x + 1) s).toNat * 2 ^ 8)
         imgCell x y t = some (.c16 (channel16 s.params.expand16 p s.maskR) (channel16 s.params.expand16 p s.maskG)
           (channel16 s.params.expand16 p s.maskB) 0xFFFF)) ∧
       (∀ k, (∀ x, x < s.cfgWidth.toNat → k ≠ imgKey x y) → Memory.find k t.img = Memory.find k s.img)) ∧
      t = { s with
        img := t.img, srcRow := s.srcRow + 1, rowWptr := 0
        phase := if s.srcRow.toNat + 1 = s.rowsTotal.toNat then .done else .decode }

/-- R163 with R70, R174: DEC24 of a full scanline. -/
def Obligations.Dec24WritesTheRow : Prop :=
  ∀ s : State, Inv s → s.phase = .decode → s.bpp = 24 → s.rowWptr = s.rowBytes →
    ∃ t, exec .dec24 s = .next t ∧
      (let y := if s.cfgHeight.toInt > 0 then (s.cfgHeight.toInt - 1 - s.srcRow.toNat).toNat else s.srcRow.toNat
       (∀ x, x < s.cfgWidth.toNat →
         imgCell x y t = some (.c8 (rowByte (3 * x + 2) s) (rowByte (3 * x + 1) s) (rowByte (3 * x) s) 0xFF)) ∧
       (∀ k, (∀ x, x < s.cfgWidth.toNat → k ≠ imgKey x y) → Memory.find k t.img = Memory.find k s.img)) ∧
      t = { s with
        img := t.img, srcRow := s.srcRow + 1, rowWptr := 0
        phase := if s.srcRow.toNat + 1 = s.rowsTotal.toNat then .done else .decode }

/-- R163 with R66, R138, R139, R175: DEC32 of a full scanline. -/
def Obligations.Dec32WritesTheRow : Prop :=
  ∀ s : State, Inv s → s.phase = .decode → s.bpp = 32 → s.rowWptr = s.rowBytes →
    ∃ t, exec .dec32 s = .next t ∧
      (let y := if s.cfgHeight.toInt > 0 then (s.cfgHeight.toInt - 1 - s.srcRow.toNat).toNat else s.srcRow.toNat
       (∀ x, x < s.cfgWidth.toNat →
         let p : Word := BitVec.ofNat 32
           ((rowByte (4 * x) s).toNat + (rowByte (4 * x + 1) s).toNat * 2 ^ 8 +
            (rowByte (4 * x + 2) s).toNat * 2 ^ 16 + (rowByte (4 * x + 3) s).toNat * 2 ^ 24)
         imgCell x y t = some (.c8 (channel8 p s.maskR) (channel8 p s.maskG) (channel8 p s.maskB)
           (if s.maskA = 0 then 0xFF else channel8 p s.maskA))) ∧
       (∀ k, (∀ x, x < s.cfgWidth.toNat → k ≠ imgKey x y) → Memory.find k t.img = Memory.find k s.img)) ∧
      t = { s with
        img := t.img, srcRow := s.srcRow + 1, rowWptr := 0
        phase := if s.srcRow.toNat + 1 = s.rowsTotal.toNat then .done else .decode }

/-- R163, R223: the errors of every DECn, in their order; and in CONFIG, a DECn that passes the entry check always raises
IO_ROW. -/
def Obligations.DecodersRefuseInOrder : Prop :=
  ∀ (i : Instr) (n : Nat) (s : State),
    (i, n) ∈ [(Instr.dec1, 1), (.dec4, 4), (.dec8, 8), (.dec16, 16), (.dec24, 24), (.dec32, 32)] →
    (s.phase = .idle ∨ s.phase = .done → exec i s = .next { s with err := .seq, phase := .failed }) ∧
    (s.phase = .config ∨ s.phase = .decode → s.bpp.toNat ≠ n →
      exec i s = .next { s with err := .seq, phase := .failed }) ∧
    (∀ e, s.phase = .config → s.bpp.toNat = n → enterDecode s = some e →
      exec i s = .next { s with err := e, phase := .failed }) ∧
    (s.phase = .decode ∨ s.phase = .config ∧ enterDecode s = none → s.bpp.toNat = n → s.rowWptr ≠ s.rowBytes →
      exec i s = .next { s with err := .ioRow, phase := .failed }) ∧
    (Inv s → s.phase = .config → enterDecode s = none → s.bpp.toNat = n →
      exec i s = .next { s with err := .ioRow, phase := .failed })

/-- R164, R166: two scanlines that differ only in padding bytes, or in the unused low bits of the last data byte, decode to
the same pixels. -/
def Obligations.PaddingNeverReachesAPixel : Prop :=
  ∀ (i : Instr) (s t : State) (rb : List Host.Cell),
    i ∈ decoders → exec i s = .next t →
    (∀ k b, 8 * k + b < s.cfgWidth.toNat * s.bpp.toNat → b < 8 →
      (rowByte k { s with rowbuf := rb }).getLsbD (7 - b) = (rowByte k s).getLsbD (7 - b)) →
    exec i { s with rowbuf := rb } = .next { t with rowbuf := rb }

/-- R177: a one-row image decodes to the same IMG for H = +1 and H = -1; in both cases targetY is 0. -/
def Obligations.OneRowImageIgnoresTheHeightSign : Prop :=
  targetY 1 0 = 0 ∧ targetY (-1) 0 = 0 ∧
  ∀ (i : Instr) (s t : State), i ∈ decoders → s.cfgHeight = 1 → s.srcRow = 0 → exec i s = .next t →
    exec i { s with cfgHeight := -1 } = .next { t with cfgHeight := -1 }

/-! ## Read-back (43_readback.md) -/

/-- R203 with R201: PAL_RD. -/
def Obligations.PalRdReadsThePalette : Prop :=
  decode 0x06000000 = .legal .palRd ∧
  ∀ s : State,
    (s.phase = .done → s.indexed = true → s.arg0.toNat < s.palLen.toNat → s.arg0.toNat < 256 →
      exec .palRd s = .next { s with
        res0 := (0xFF#8 ++ (palEntry s.arg0.toNat s).r ++ (palEntry s.arg0.toNat s).g ++ (palEntry s.arg0.toNat s).b : BitVec 32)
        res1 := 0, res2 := 0 }) ∧
    (s.phase ≠ .failed → s.phase ≠ .done ∨ s.indexed = false →
      exec .palRd s = .next { s with err := .seq, phase := .failed }) ∧
    (s.phase = .done → s.indexed = true → s.palLen.toNat ≤ s.arg0.toNat ∨ 256 ≤ s.arg0.toNat →
      exec .palRd s = .next { s with err := .range, phase := .failed })

/-- R204 with R200, R201: PIX_RD by pixel kind. -/
def Obligations.PixRdReadsTheColour : Prop :=
  ∀ s : State, s.phase = .done → s.arg0.toNat < s.cfgWidth.toNat → s.arg1.toNat < s.rowsTotal.toNat →
    (∀ r g b a, imgCell s.arg0.toNat s.arg1.toNat s = some (.c8 r g b a) →
      exec .pixRd s = .next { s with res0 := (a ++ r ++ g ++ b : BitVec 32), res1 := 0, res2 := 0 }) ∧
    (∀ r g b a, imgCell s.arg0.toNat s.arg1.toNat s = some (.c16 r g b a) →
      exec .pixRd s = .next { s with res0 := (r ++ g : BitVec 32), res1 := (b ++ a : BitVec 32), res2 := 1 }) ∧
    (∀ i, imgCell s.arg0.toNat s.arg1.toNat s = some (.idx i) → i.toNat < s.palLen.toNat →
      exec .pixRd s = .next { s with
        res0 := (0xFF#8 ++ (palEntry i.toNat s).r ++ (palEntry i.toNat s).g ++ (palEntry i.toNat s).b : BitVec 32)
        res1 := 0, res2 := 0 }) ∧
    (∀ i, imgCell s.arg0.toNat s.arg1.toNat s = some (.idx i) → s.palLen.toNat ≤ i.toNat →
      exec .pixRd s = .next { s with err := .palIndex, phase := .failed }) ∧
    (imgCell s.arg0.toNat s.arg1.toNat s = none → exec .pixRd s = .fault .imgCellNone)

/-- R205 with R201: IDX_RD returns the stored index, whatever PAL_LEN is. -/
def Obligations.IdxRdReadsTheIndex : Prop :=
  ∀ s : State, Inv s → s.phase = .done → s.indexed = true →
    s.arg0.toNat < s.cfgWidth.toNat → s.arg1.toNat < s.rowsTotal.toNat →
    ∃ i : Byte, imgCell s.arg0.toNat s.arg1.toNat s = some (.idx i) ∧
      exec .idxRd s = .next { s with res0 := BitVec.ofNat 32 i.toNat, res1 := 0, res2 := 2 }

/-- R204, R205, R223: PIX_RD and IDX_RD before DONE, of a direct-colour image, and outside the image. -/
def Obligations.PixelReadBackRefusesInOrder : Prop :=
  ∀ s : State,
    (s.phase ≠ .failed → s.phase ≠ .done → exec .pixRd s = .next { s with err := .seq, phase := .failed }) ∧
    (s.phase ≠ .failed → s.phase ≠ .done ∨ s.indexed = false →
      exec .idxRd s = .next { s with err := .seq, phase := .failed }) ∧
    (s.phase = .done → s.cfgWidth.toNat ≤ s.arg0.toNat ∨ s.rowsTotal.toNat ≤ s.arg1.toNat →
      exec .pixRd s = .next { s with err := .range, phase := .failed } ∧
      (s.indexed = true → exec .idxRd s = .next { s with err := .range, phase := .failed }))

/-- R201 with R132, R175: a 32-bit pixel decoded with the default masks packs back to the pixel word itself. -/
def Obligations.DefaultMasksReturnThePixelWord : Prop :=
  ∀ p : Word,
    (alpha32 p (defaultMask 32 .a) ++ channel8 p (defaultMask 32 .r) ++ channel8 p (defaultMask 32 .g) ++
      channel8 p (defaultMask 32 .b) : BitVec 32) = p
end

