-- ==== Sys2Proof/Laws/State.lean ====
section
/-! SUPPORT. What each state update leaves and what it writes, field by field: later proofs rewrite with these and do not unfold
a record update. -/

namespace Sys2Proof.Machine

/-! ## setPalEntry -/

@[simp] theorem setPalEntry_params (i : Nat) (e : Rgb) (s : State) : (setPalEntry i e s).params = s.params := rfl
@[simp] theorem setPalEntry_phase (i : Nat) (e : Rgb) (s : State) : (setPalEntry i e s).phase = s.phase := rfl
@[simp] theorem setPalEntry_maskValid (i : Nat) (e : Rgb) (s : State) : (setPalEntry i e s).maskValid = s.maskValid := rfl
@[simp] theorem setPalEntry_err (i : Nat) (e : Rgb) (s : State) : (setPalEntry i e s).err = s.err := rfl
@[simp] theorem setPalEntry_indexed (i : Nat) (e : Rgb) (s : State) : (setPalEntry i e s).indexed = s.indexed := rfl
@[simp] theorem setPalEntry_arg0 (i : Nat) (e : Rgb) (s : State) : (setPalEntry i e s).arg0 = s.arg0 := rfl
@[simp] theorem setPalEntry_arg1 (i : Nat) (e : Rgb) (s : State) : (setPalEntry i e s).arg1 = s.arg1 := rfl
@[simp] theorem setPalEntry_arg2 (i : Nat) (e : Rgb) (s : State) : (setPalEntry i e s).arg2 = s.arg2 := rfl
@[simp] theorem setPalEntry_res0 (i : Nat) (e : Rgb) (s : State) : (setPalEntry i e s).res0 = s.res0 := rfl
@[simp] theorem setPalEntry_res1 (i : Nat) (e : Rgb) (s : State) : (setPalEntry i e s).res1 = s.res1 := rfl
@[simp] theorem setPalEntry_res2 (i : Nat) (e : Rgb) (s : State) : (setPalEntry i e s).res2 = s.res2 := rfl
@[simp] theorem setPalEntry_bpp (i : Nat) (e : Rgb) (s : State) : (setPalEntry i e s).bpp = s.bpp := rfl
@[simp] theorem setPalEntry_bf (i : Nat) (e : Rgb) (s : State) : (setPalEntry i e s).bf = s.bf := rfl
@[simp] theorem setPalEntry_cfgWidth (i : Nat) (e : Rgb) (s : State) : (setPalEntry i e s).cfgWidth = s.cfgWidth := rfl
@[simp] theorem setPalEntry_cfgHeight (i : Nat) (e : Rgb) (s : State) : (setPalEntry i e s).cfgHeight = s.cfgHeight := rfl
@[simp] theorem setPalEntry_clrUsed (i : Nat) (e : Rgb) (s : State) : (setPalEntry i e s).clrUsed = s.clrUsed := rfl
@[simp] theorem setPalEntry_palLen (i : Nat) (e : Rgb) (s : State) : (setPalEntry i e s).palLen = s.palLen := rfl
@[simp] theorem setPalEntry_palCnt (i : Nat) (e : Rgb) (s : State) : (setPalEntry i e s).palCnt = s.palCnt := rfl
@[simp] theorem setPalEntry_rowBytes (i : Nat) (e : Rgb) (s : State) : (setPalEntry i e s).rowBytes = s.rowBytes := rfl
@[simp] theorem setPalEntry_rowWptr (i : Nat) (e : Rgb) (s : State) : (setPalEntry i e s).rowWptr = s.rowWptr := rfl
@[simp] theorem setPalEntry_srcRow (i : Nat) (e : Rgb) (s : State) : (setPalEntry i e s).srcRow = s.srcRow := rfl
@[simp] theorem setPalEntry_rowsTotal (i : Nat) (e : Rgb) (s : State) : (setPalEntry i e s).rowsTotal = s.rowsTotal := rfl
@[simp] theorem setPalEntry_maskR (i : Nat) (e : Rgb) (s : State) : (setPalEntry i e s).maskR = s.maskR := rfl
@[simp] theorem setPalEntry_maskG (i : Nat) (e : Rgb) (s : State) : (setPalEntry i e s).maskG = s.maskG := rfl
@[simp] theorem setPalEntry_maskB (i : Nat) (e : Rgb) (s : State) : (setPalEntry i e s).maskB = s.maskB := rfl
@[simp] theorem setPalEntry_maskA (i : Nat) (e : Rgb) (s : State) : (setPalEntry i e s).maskA = s.maskA := rfl
@[simp] theorem setPalEntry_rowbuf (i : Nat) (e : Rgb) (s : State) : (setPalEntry i e s).rowbuf = s.rowbuf := rfl
@[simp] theorem setPalEntry_img (i : Nat) (e : Rgb) (s : State) : (setPalEntry i e s).img = s.img := rfl
@[simp] theorem setPalEntry_pending (i : Nat) (e : Rgb) (s : State) : (setPalEntry i e s).pending = s.pending := rfl
@[simp] theorem setPalEntry_readData (i : Nat) (e : Rgb) (s : State) : (setPalEntry i e s).readData = s.readData := rfl

/-! ## setResult -/

@[simp] theorem setResult_params (a b c : Word) (s : State) : (setResult a b c s).params = s.params := rfl
@[simp] theorem setResult_phase (a b c : Word) (s : State) : (setResult a b c s).phase = s.phase := rfl
@[simp] theorem setResult_maskValid (a b c : Word) (s : State) : (setResult a b c s).maskValid = s.maskValid := rfl
@[simp] theorem setResult_err (a b c : Word) (s : State) : (setResult a b c s).err = s.err := rfl
@[simp] theorem setResult_indexed (a b c : Word) (s : State) : (setResult a b c s).indexed = s.indexed := rfl
@[simp] theorem setResult_arg0 (a b c : Word) (s : State) : (setResult a b c s).arg0 = s.arg0 := rfl
@[simp] theorem setResult_arg1 (a b c : Word) (s : State) : (setResult a b c s).arg1 = s.arg1 := rfl
@[simp] theorem setResult_arg2 (a b c : Word) (s : State) : (setResult a b c s).arg2 = s.arg2 := rfl
@[simp] theorem setResult_bpp (a b c : Word) (s : State) : (setResult a b c s).bpp = s.bpp := rfl
@[simp] theorem setResult_bf (a b c : Word) (s : State) : (setResult a b c s).bf = s.bf := rfl
@[simp] theorem setResult_cfgWidth (a b c : Word) (s : State) : (setResult a b c s).cfgWidth = s.cfgWidth := rfl
@[simp] theorem setResult_cfgHeight (a b c : Word) (s : State) : (setResult a b c s).cfgHeight = s.cfgHeight := rfl
@[simp] theorem setResult_clrUsed (a b c : Word) (s : State) : (setResult a b c s).clrUsed = s.clrUsed := rfl
@[simp] theorem setResult_palLen (a b c : Word) (s : State) : (setResult a b c s).palLen = s.palLen := rfl
@[simp] theorem setResult_palCnt (a b c : Word) (s : State) : (setResult a b c s).palCnt = s.palCnt := rfl
@[simp] theorem setResult_rowBytes (a b c : Word) (s : State) : (setResult a b c s).rowBytes = s.rowBytes := rfl
@[simp] theorem setResult_rowWptr (a b c : Word) (s : State) : (setResult a b c s).rowWptr = s.rowWptr := rfl
@[simp] theorem setResult_srcRow (a b c : Word) (s : State) : (setResult a b c s).srcRow = s.srcRow := rfl
@[simp] theorem setResult_rowsTotal (a b c : Word) (s : State) : (setResult a b c s).rowsTotal = s.rowsTotal := rfl
@[simp] theorem setResult_maskR (a b c : Word) (s : State) : (setResult a b c s).maskR = s.maskR := rfl
@[simp] theorem setResult_maskG (a b c : Word) (s : State) : (setResult a b c s).maskG = s.maskG := rfl
@[simp] theorem setResult_maskB (a b c : Word) (s : State) : (setResult a b c s).maskB = s.maskB := rfl
@[simp] theorem setResult_maskA (a b c : Word) (s : State) : (setResult a b c s).maskA = s.maskA := rfl
@[simp] theorem setResult_palette (a b c : Word) (s : State) : (setResult a b c s).palette = s.palette := rfl
@[simp] theorem setResult_rowbuf (a b c : Word) (s : State) : (setResult a b c s).rowbuf = s.rowbuf := rfl
@[simp] theorem setResult_img (a b c : Word) (s : State) : (setResult a b c s).img = s.img := rfl
@[simp] theorem setResult_pending (a b c : Word) (s : State) : (setResult a b c s).pending = s.pending := rfl
@[simp] theorem setResult_readData (a b c : Word) (s : State) : (setResult a b c s).readData = s.readData := rfl
@[simp] theorem setResult_res0 (a b c : Word) (s : State) : (setResult a b c s).res0 = a := rfl
@[simp] theorem setResult_res1 (a b c : Word) (s : State) : (setResult a b c s).res1 = b := rfl
@[simp] theorem setResult_res2 (a b c : Word) (s : State) : (setResult a b c s).res2 = c := rfl

/-! ## pushBytes -/

@[simp] theorem pushBytes_params (s : State) : (pushBytes s).params = s.params := rfl
@[simp] theorem pushBytes_phase (s : State) : (pushBytes s).phase = s.phase := rfl
@[simp] theorem pushBytes_maskValid (s : State) : (pushBytes s).maskValid = s.maskValid := rfl
@[simp] theorem pushBytes_err (s : State) : (pushBytes s).err = s.err := rfl
@[simp] theorem pushBytes_indexed (s : State) : (pushBytes s).indexed = s.indexed := rfl
@[simp] theorem pushBytes_arg0 (s : State) : (pushBytes s).arg0 = s.arg0 := rfl
@[simp] theorem pushBytes_arg1 (s : State) : (pushBytes s).arg1 = s.arg1 := rfl
@[simp] theorem pushBytes_arg2 (s : State) : (pushBytes s).arg2 = s.arg2 := rfl
@[simp] theorem pushBytes_res0 (s : State) : (pushBytes s).res0 = s.res0 := rfl
@[simp] theorem pushBytes_res1 (s : State) : (pushBytes s).res1 = s.res1 := rfl
@[simp] theorem pushBytes_res2 (s : State) : (pushBytes s).res2 = s.res2 := rfl
@[simp] theorem pushBytes_bpp (s : State) : (pushBytes s).bpp = s.bpp := rfl
@[simp] theorem pushBytes_bf (s : State) : (pushBytes s).bf = s.bf := rfl
@[simp] theorem pushBytes_cfgWidth (s : State) : (pushBytes s).cfgWidth = s.cfgWidth := rfl
@[simp] theorem pushBytes_cfgHeight (s : State) : (pushBytes s).cfgHeight = s.cfgHeight := rfl
@[simp] theorem pushBytes_clrUsed (s : State) : (pushBytes s).clrUsed = s.clrUsed := rfl
@[simp] theorem pushBytes_palLen (s : State) : (pushBytes s).palLen = s.palLen := rfl
@[simp] theorem pushBytes_palCnt (s : State) : (pushBytes s).palCnt = s.palCnt := rfl
@[simp] theorem pushBytes_rowBytes (s : State) : (pushBytes s).rowBytes = s.rowBytes := rfl
@[simp] theorem pushBytes_rowWptr (s : State) : (pushBytes s).rowWptr = s.rowWptr := rfl
@[simp] theorem pushBytes_srcRow (s : State) : (pushBytes s).srcRow = s.srcRow := rfl
@[simp] theorem pushBytes_rowsTotal (s : State) : (pushBytes s).rowsTotal = s.rowsTotal := rfl
@[simp] theorem pushBytes_maskR (s : State) : (pushBytes s).maskR = s.maskR := rfl
@[simp] theorem pushBytes_maskG (s : State) : (pushBytes s).maskG = s.maskG := rfl
@[simp] theorem pushBytes_maskB (s : State) : (pushBytes s).maskB = s.maskB := rfl
@[simp] theorem pushBytes_maskA (s : State) : (pushBytes s).maskA = s.maskA := rfl
@[simp] theorem pushBytes_palette (s : State) : (pushBytes s).palette = s.palette := rfl
@[simp] theorem pushBytes_img (s : State) : (pushBytes s).img = s.img := rfl
@[simp] theorem pushBytes_pending (s : State) : (pushBytes s).pending = s.pending := rfl
@[simp] theorem pushBytes_readData (s : State) : (pushBytes s).readData = s.readData := rfl

/-! ## clearSession -/

@[simp] theorem clearSession_params (s : State) : (clearSession s).params = s.params := rfl
@[simp] theorem clearSession_phase (s : State) : (clearSession s).phase = .idle := rfl
@[simp] theorem clearSession_maskValid (s : State) : (clearSession s).maskValid = 0 := rfl
@[simp] theorem clearSession_err (s : State) : (clearSession s).err = .noError := rfl
@[simp] theorem clearSession_indexed (s : State) : (clearSession s).indexed = false := rfl
@[simp] theorem clearSession_arg0 (s : State) : (clearSession s).arg0 = s.arg0 := rfl
@[simp] theorem clearSession_arg1 (s : State) : (clearSession s).arg1 = s.arg1 := rfl
@[simp] theorem clearSession_arg2 (s : State) : (clearSession s).arg2 = s.arg2 := rfl
@[simp] theorem clearSession_res0 (s : State) : (clearSession s).res0 = s.res0 := rfl
@[simp] theorem clearSession_res1 (s : State) : (clearSession s).res1 = s.res1 := rfl
@[simp] theorem clearSession_res2 (s : State) : (clearSession s).res2 = s.res2 := rfl
@[simp] theorem clearSession_bpp (s : State) : (clearSession s).bpp = 0 := rfl
@[simp] theorem clearSession_bf (s : State) : (clearSession s).bf = false := rfl
@[simp] theorem clearSession_cfgWidth (s : State) : (clearSession s).cfgWidth = 0 := rfl
@[simp] theorem clearSession_cfgHeight (s : State) : (clearSession s).cfgHeight = 0 := rfl
@[simp] theorem clearSession_clrUsed (s : State) : (clearSession s).clrUsed = 0 := rfl
@[simp] theorem clearSession_palLen (s : State) : (clearSession s).palLen = 0 := rfl
@[simp] theorem clearSession_palCnt (s : State) : (clearSession s).palCnt = 0 := rfl
@[simp] theorem clearSession_rowBytes (s : State) : (clearSession s).rowBytes = 0 := rfl
@[simp] theorem clearSession_rowWptr (s : State) : (clearSession s).rowWptr = 0 := rfl
@[simp] theorem clearSession_srcRow (s : State) : (clearSession s).srcRow = 0 := rfl
@[simp] theorem clearSession_rowsTotal (s : State) : (clearSession s).rowsTotal = 0 := rfl
@[simp] theorem clearSession_maskR (s : State) : (clearSession s).maskR = 0 := rfl
@[simp] theorem clearSession_maskG (s : State) : (clearSession s).maskG = 0 := rfl
@[simp] theorem clearSession_maskB (s : State) : (clearSession s).maskB = 0 := rfl
@[simp] theorem clearSession_maskA (s : State) : (clearSession s).maskA = 0 := rfl
@[simp] theorem clearSession_palette (s : State) : (clearSession s).palette = s.palette := rfl
@[simp] theorem clearSession_rowbuf (s : State) : (clearSession s).rowbuf = s.rowbuf := rfl
@[simp] theorem clearSession_img (s : State) : (clearSession s).img = [] := rfl
@[simp] theorem clearSession_pending (s : State) : (clearSession s).pending = s.pending := rfl
@[simp] theorem clearSession_readData (s : State) : (clearSession s).readData = s.readData := rfl

/-! ## setMask -/

@[simp] theorem setMask_params (c : Channel) (m : Word) (s : State) : (setMask c m s).params = s.params := by cases c <;> rfl
@[simp] theorem setMask_phase (c : Channel) (m : Word) (s : State) : (setMask c m s).phase = s.phase := by cases c <;> rfl
@[simp] theorem setMask_maskValid (c : Channel) (m : Word) (s : State) : (setMask c m s).maskValid = s.maskValid := by cases c <;> rfl
@[simp] theorem setMask_err (c : Channel) (m : Word) (s : State) : (setMask c m s).err = s.err := by cases c <;> rfl
@[simp] theorem setMask_indexed (c : Channel) (m : Word) (s : State) : (setMask c m s).indexed = s.indexed := by cases c <;> rfl
@[simp] theorem setMask_arg0 (c : Channel) (m : Word) (s : State) : (setMask c m s).arg0 = s.arg0 := by cases c <;> rfl
@[simp] theorem setMask_arg1 (c : Channel) (m : Word) (s : State) : (setMask c m s).arg1 = s.arg1 := by cases c <;> rfl
@[simp] theorem setMask_arg2 (c : Channel) (m : Word) (s : State) : (setMask c m s).arg2 = s.arg2 := by cases c <;> rfl
@[simp] theorem setMask_res0 (c : Channel) (m : Word) (s : State) : (setMask c m s).res0 = s.res0 := by cases c <;> rfl
@[simp] theorem setMask_res1 (c : Channel) (m : Word) (s : State) : (setMask c m s).res1 = s.res1 := by cases c <;> rfl
@[simp] theorem setMask_res2 (c : Channel) (m : Word) (s : State) : (setMask c m s).res2 = s.res2 := by cases c <;> rfl
@[simp] theorem setMask_bpp (c : Channel) (m : Word) (s : State) : (setMask c m s).bpp = s.bpp := by cases c <;> rfl
@[simp] theorem setMask_bf (c : Channel) (m : Word) (s : State) : (setMask c m s).bf = s.bf := by cases c <;> rfl
@[simp] theorem setMask_cfgWidth (c : Channel) (m : Word) (s : State) : (setMask c m s).cfgWidth = s.cfgWidth := by cases c <;> rfl
@[simp] theorem setMask_cfgHeight (c : Channel) (m : Word) (s : State) : (setMask c m s).cfgHeight = s.cfgHeight := by cases c <;> rfl
@[simp] theorem setMask_clrUsed (c : Channel) (m : Word) (s : State) : (setMask c m s).clrUsed = s.clrUsed := by cases c <;> rfl
@[simp] theorem setMask_palLen (c : Channel) (m : Word) (s : State) : (setMask c m s).palLen = s.palLen := by cases c <;> rfl
@[simp] theorem setMask_palCnt (c : Channel) (m : Word) (s : State) : (setMask c m s).palCnt = s.palCnt := by cases c <;> rfl
@[simp] theorem setMask_rowBytes (c : Channel) (m : Word) (s : State) : (setMask c m s).rowBytes = s.rowBytes := by cases c <;> rfl
@[simp] theorem setMask_rowWptr (c : Channel) (m : Word) (s : State) : (setMask c m s).rowWptr = s.rowWptr := by cases c <;> rfl
@[simp] theorem setMask_srcRow (c : Channel) (m : Word) (s : State) : (setMask c m s).srcRow = s.srcRow := by cases c <;> rfl
@[simp] theorem setMask_rowsTotal (c : Channel) (m : Word) (s : State) : (setMask c m s).rowsTotal = s.rowsTotal := by cases c <;> rfl
@[simp] theorem setMask_palette (c : Channel) (m : Word) (s : State) : (setMask c m s).palette = s.palette := by cases c <;> rfl
@[simp] theorem setMask_rowbuf (c : Channel) (m : Word) (s : State) : (setMask c m s).rowbuf = s.rowbuf := by cases c <;> rfl
@[simp] theorem setMask_img (c : Channel) (m : Word) (s : State) : (setMask c m s).img = s.img := by cases c <;> rfl
@[simp] theorem setMask_pending (c : Channel) (m : Word) (s : State) : (setMask c m s).pending = s.pending := by cases c <;> rfl
@[simp] theorem setMask_readData (c : Channel) (m : Word) (s : State) : (setMask c m s).readData = s.readData := by cases c <;> rfl

@[simp] theorem maskOf_setMask_same (c : Channel) (m : Word) (s : State) : maskOf c (setMask c m s) = m := by cases c <;> rfl

theorem maskOf_setMask_other (c d : Channel) (m : Word) (s : State) (h : d ≠ c) :
    maskOf d (setMask c m s) = maskOf d s := by
  cases c <;> cases d <;> first | rfl | exact absurd rfl h

/-! ## setPixelResult -/

/-- A read-back result writes RES0 to RES2 and nothing else (43_readback.md R201, R206). -/
theorem setPixelResult_frame (p : Pixel) (s : State) :
    ∃ a b c, setPixelResult p s = setResult a b c s := by
  cases p <;> exact ⟨_, _, _, rfl⟩

end Sys2Proof.Machine
end

