-- ==== Sys2Proof/Laws/Store.lean ====
section
/-! SUPPORT. The laws of the internal memories: read after write, a write leaves every other key alone, every operation keeps
the canonical form, and canonical memories that read alike are equal data. -/

namespace Sys2Proof.Machine
namespace Memory

variable {α : Type}

@[simp] theorem find_nil (k : Nat) : find k ([] : Store α) = none := rfl

theorem find_insert_same (k : Nat) (v : α) (m : Store α) : find k (insert k v m) = some v := by
  induction m with
  | nil => simp [insert, find]
  | cons e rest ih =>
    obtain ⟨j, u⟩ := e
    by_cases h1 : k < j
    · simp [insert, find, h1]
    · by_cases h2 : j = k
      · simp [insert, find, h2]
      · simp [insert, find, h1, h2, ih]

theorem find_insert_other {k l : Nat} (h : l ≠ k) (v : α) (m : Store α) :
    find l (insert k v m) = find l m := by
  induction m with
  | nil => simp [insert, find, Ne.symm h]
  | cons e rest ih =>
    obtain ⟨j, u⟩ := e
    by_cases h1 : k < j
    · simp [insert, find, h1, Ne.symm h]
    · by_cases h2 : j = k
      · subst h2
        simp [insert, find, Ne.symm h]
      · simp [insert, find, h1, h2, ih]

theorem find_erase_same (k : Nat) (m : Store α) : find k (erase k m) = none := by
  induction m with
  | nil => rfl
  | cons e rest ih =>
    obtain ⟨j, u⟩ := e
    by_cases h : j = k
    · simpa [erase, h] using ih
    · simpa [erase, find, h] using ih

theorem find_erase_other {k l : Nat} (h : l ≠ k) (m : Store α) : find l (erase k m) = find l m := by
  induction m with
  | nil => rfl
  | cons e rest ih =>
    obtain ⟨j, u⟩ := e
    by_cases hj : j = k
    · subst hj
      simpa [erase, find, Ne.symm h] using ih
    · have he : erase k ((j, u) :: rest) = (j, u) :: erase k rest := by simp [erase, hj]
      simp [he, find, ih]

variable [DecidableEq α]

theorem find_put_other {d : α} {k l : Nat} (h : l ≠ k) (v : α) (m : Store α) :
    find l (put d k v m) = find l m := by
  unfold put
  split
  · exact find_erase_other h m
  · exact find_insert_other h v m

@[simp] theorem get_put_same (d : α) (k : Nat) (v : α) (m : Store α) : get d k (put d k v m) = v := by
  unfold get put
  split
  · next h => simp [find_erase_same, h]
  · simp [find_insert_same]

theorem get_put_other {d : α} {k l : Nat} (h : l ≠ k) (v : α) (m : Store α) :
    get d l (put d k v m) = get d l m := by
  simp [get, find_put_other h]

omit [DecidableEq α] in
theorem mem_insert {k : Nat} {v : α} {m : Store α} {e : Nat × α} (h : e ∈ insert k v m) : e = (k, v) ∨ e ∈ m := by
  induction m with
  | nil => simpa [insert] using h
  | cons f rest ih =>
    obtain ⟨j, u⟩ := f
    by_cases h1 : k < j
    · simpa [insert, h1] using h
    · by_cases h2 : j = k
      · have := by simpa [insert, h2] using h
        rcases this with h | h
        · exact .inl (by simp [h])
        · exact .inr (by simp [h])
      · have := by simpa [insert, h1, h2] using h
        rcases this with h | h
        · exact .inr (by simp [h])
        · rcases ih h with h | h
          · exact .inl h
          · exact .inr (by simp [h])

/-- A put lists no key but the one it writes. -/
theorem mem_put {d : α} {k : Nat} {v : α} {m : Store α} {e : Nat × α} (h : e ∈ put d k v m) :
    e.1 = k ∨ e ∈ m := by
  unfold put at h
  split at h
  · exact .inr (List.mem_filter.mp h).1
  · rcases mem_insert h with h | h
    · exact .inl (by simp [h])
    · exact .inr h

omit [DecidableEq α] in
theorem insert_rising {k : Nat} {v : α} {m : Store α} (h : Rising m) : Rising (insert k v m) := by
  induction m with
  | nil => simp [insert, Rising]
  | cons e rest ih =>
    obtain ⟨j, u⟩ := e
    have hj : ∀ a ∈ rest.map Prod.fst, j < a := (List.pairwise_cons.mp h).1
    have hr : Rising rest := (List.pairwise_cons.mp h).2
    by_cases h1 : k < j
    · have : insert k v ((j, u) :: rest) = (k, v) :: (j, u) :: rest := by simp [insert, h1]
      rw [this]
      refine List.pairwise_cons.mpr ⟨?_, h⟩
      intro a ha
      rcases List.mem_cons.mp ha with ha | ha
      · exact ha ▸ h1
      · exact h1.trans (hj a ha)
    · by_cases h2 : j = k
      · have : insert k v ((j, u) :: rest) = (k, v) :: rest := by simp [insert, h2]
        rw [this, ← h2]
        exact List.pairwise_cons.mpr ⟨hj, hr⟩
      · have : insert k v ((j, u) :: rest) = (j, u) :: insert k v rest := by simp [insert, h1, h2]
        rw [this]
        refine List.pairwise_cons.mpr ⟨?_, ih hr⟩
        intro a ha
        obtain ⟨e, he, rfl⟩ := List.mem_map.mp ha
        rcases mem_insert he with he | he
        · simp only [he]
          omega
        · exact hj _ (List.mem_map_of_mem he)

omit [DecidableEq α] in
theorem erase_rising {k : Nat} {m : Store α} (h : Rising m) : Rising (erase k m) :=
  List.Pairwise.sublist (List.Sublist.map _ List.filter_sublist) h

/-- Writing keeps the canonical form. -/
theorem put_wf {d : α} {k : Nat} {v : α} {m : Store α} (h : wf d m = true) : wf d (put d k v m) = true := by
  simp only [wf, Bool.and_eq_true, decide_eq_true_eq, List.all_eq_true] at h ⊢
  unfold put
  split
  · exact ⟨erase_rising h.1, fun e he => h.2 e (List.mem_filter.mp he).1⟩
  · next hv =>
    refine ⟨insert_rising h.1, fun e he => ?_⟩
    rcases mem_insert he with he | he
    · simpa [he] using hv
    · exact h.2 e he

omit [DecidableEq α] in
/-- A listed key is one of the keys. -/
theorem find_some_mem {k : Nat} {v : α} {m : Store α} (h : find k m = some v) : (k, v) ∈ m := by
  induction m with
  | nil => simp at h
  | cons e rest ih =>
    obtain ⟨j, u⟩ := e
    by_cases hj : j = k
    · simp [find, hj] at h
      simp [hj, h]
    · simp only [find, hj, if_false] at h
      simp [ih h]

omit [DecidableEq α] in
/-- A key below every listed key is not listed. -/
theorem find_none_of_lt {k : Nat} {m : Store α} (h : ∀ a ∈ m.map Prod.fst, k < a) : find k m = none := by
  cases hf : find k m with
  | none => rfl
  | some v =>
    have := h _ (List.mem_map_of_mem (find_some_mem hf))
    simp at this

end Memory
end Sys2Proof.Machine
end

