-- ==== Sys2Proof/Laws/Ops.lean ====
section
/-! SUPPORT. One lemma per shared operation that says everything it can do: error entry, the FAILED filter, the internal
memories as the commands use them, ROW_PUSH, the common decode step, and the bus. Later proofs cite these and unfold nothing. -/

namespace Sys2Proof.Machine

/-! ## Error entry -/

@[simp] theorem raise_eq (e : ErrCode) (s : State) : raise e s = .next { s with err := e, phase := .failed } := rfl

@[simp] theorem unlessFailed_failed {s : State} {k : Result} (h : s.phase = .failed) : unlessFailed s k = .next s := by
  simp [unlessFailed, h]

@[simp] theorem unlessFailed_live {s : State} {k : Result} (h : s.phase ≠ .failed) : unlessFailed s k = k := by
  simp [unlessFailed, h]

/-- What a filtered command can answer. -/
theorem unlessFailed_next {s t : State} {k : Result} (h : unlessFailed s k = .next t) :
    (s.phase = .failed ∧ t = s) ∨ (s.phase ≠ .failed ∧ k = .next t) := by
  by_cases hf : s.phase = .failed
  · simp only [unlessFailed_failed hf, Host.Outcome.next.injEq] at h
    exact .inl ⟨hf, h.symm⟩
  · exact .inr ⟨hf, by simpa [hf] using h⟩

/-! ## Memories as the commands use them -/

theorem imgKey_inj {x x' y y' : Nat} (hx : x < 2 ^ 32) (hx' : x' < 2 ^ 32) (h : imgKey x y = imgKey x' y') :
    x = x' ∧ y = y' := by
  unfold imgKey at h
  omega

/-- The entry check reads PAL_CNT, PAL_LEN, BF, MASK_VALID, BPP and the masks, and nothing else. -/
theorem enterDecode_congr {s t : State} (h1 : t.palCnt = s.palCnt) (h2 : t.palLen = s.palLen) (h3 : t.bf = s.bf)
    (h4 : t.maskValid = s.maskValid) (h5 : t.bpp = s.bpp) (hr : t.maskR = s.maskR) (hg : t.maskG = s.maskG)
    (hb : t.maskB = s.maskB) (ha : t.maskA = s.maskA) : enterDecode t = enterDecode s := by
  simp only [enterDecode, h1, h2, h3, h4, h5, hr, hg, hb, ha]

/-- A written row reads back, cell by cell. -/
theorem find_writeRow_same {y x w : Nat} (pixel : Nat → Pixel) (hx : x < w) (hw : w ≤ 2 ^ 32) (m : Store Pixel) :
    Memory.find (imgKey x y) (writeRow y pixel w m) = some (pixel x) := by
  suffices h : ∀ w m, w ≤ 2 ^ 32 → (x < w ∨ Memory.find (imgKey x y) m = some (pixel x)) → x < 2 ^ 32 →
      Memory.find (imgKey x y) (writeRow y pixel w m) = some (pixel x) from
    h w m hw (.inl hx) (by omega)
  intro w
  induction w with
  | zero => intro m _ h _; exact h.resolve_left (Nat.not_lt_zero x)
  | succ w ih =>
    intro m hw h hx
    refine ih _ (by omega) ?_ hx
    by_cases hxw : x = w
    · subst hxw
      exact .inr (Memory.find_insert_same _ _ _)
    · rcases h with h | h
      · exact .inl (by omega)
      · refine .inr ?_
        rw [Memory.find_insert_other _ _ _]
        · exact h
        · intro hk
          exact hxw (imgKey_inj hx (by omega) hk).1

/-- Writing a row leaves every key that is not one of its cells. -/
theorem find_writeRow_other {y k w : Nat} (pixel : Nat → Pixel) (m : Store Pixel)
    (h : ∀ x, x < w → k ≠ imgKey x y) : Memory.find k (writeRow y pixel w m) = Memory.find k m := by
  induction w generalizing m with
  | zero => rfl
  | succ w ih =>
    rw [writeRow, ih _ (fun x hx => h x (by omega)), Memory.find_insert_other (h w (by omega))]

/-- Writing a row keeps the keys rising. -/
theorem writeRow_rising {y w : Nat} (pixel : Nat → Pixel) {m : Store Pixel} (h : Memory.Rising m) :
    Memory.Rising (writeRow y pixel w m) := by
  induction w generalizing m with
  | zero => exact h
  | succ w ih => exact ih (Memory.insert_rising h)

/-- Two pixel functions that agree on a row write the same row. -/
theorem writeRow_congr {y w : Nat} {p q : Nat → Pixel} (h : ∀ x, x < w → p x = q x) (m : Store Pixel) :
    writeRow y p w m = writeRow y q w m := by
  induction w generalizing m with
  | zero => rfl
  | succ w ih =>
    simp only [writeRow, h w (by omega)]
    exact ih (fun x hx => h x (by omega)) _

/-- The four bytes of a ROW_PUSH, read back. -/
theorem rowByte_pushBytes_in {s : State} {j : Nat} (hj : j < 4) :
    rowByte (s.rowWptr.toNat + j) (pushBytes s) = streamByte s.arg0 j := by
  have h : j = 0 ∨ j = 1 ∨ j = 2 ∨ j = 3 := by omega
  rcases h with h | h | h | h <;> subst h <;>
    simp [rowByte, pushBytes, putRowByte, Memory.get_put_other]

/-- Every other byte of ROWBUF. -/
theorem rowByte_pushBytes_out {s : State} {k : Nat} (h : k < s.rowWptr.toNat ∨ s.rowWptr.toNat + 4 ≤ k) :
    rowByte k (pushBytes s) = rowByte k s := by
  have h0 : k ≠ s.rowWptr.toNat := by omega
  have h1 : k ≠ s.rowWptr.toNat + 1 := by omega
  have h2 : k ≠ s.rowWptr.toNat + 2 := by omega
  have h3 : k ≠ s.rowWptr.toNat + 3 := by omega
  simp [rowByte, pushBytes, putRowByte, Memory.get_put_other, h0, h1, h2, h3]

/-- A byte a ROW_PUSH lists is one of the four, or was listed. -/
theorem mem_pushBytes {s : State} {e : Host.Cell} (h : e ∈ (pushBytes s).rowbuf) :
    e ∈ s.rowbuf ∨ (s.rowWptr.toNat ≤ e.1 ∧ e.1 ≤ s.rowWptr.toNat + 3) := by
  simp only [pushBytes, putRowByte] at h
  rcases Memory.mem_put h with h | h
  · omega
  rcases Memory.mem_put h with h | h
  · omega
  rcases Memory.mem_put h with h | h
  · omega
  rcases Memory.mem_put h with h | h
  · omega
  · exact .inl h

theorem pushBytes_wf {s : State} (h : Memory.wf unwrittenByte s.rowbuf = true) :
    Memory.wf unwrittenByte (pushBytes s).rowbuf = true :=
  Memory.put_wf (Memory.put_wf (Memory.put_wf (Memory.put_wf h)))

theorem palEntry_setPalEntry (i k : Nat) (e : Rgb) (s : State) :
    palEntry k (setPalEntry i e s) = if k = i then e else palEntry k s := by
  by_cases h : k = i
  · subst h
    simp [palEntry, setPalEntry]
  · simp [palEntry, setPalEntry, h, Memory.get_put_other]

/-! ## ROW_PUSH and the common decode step -/

/-- Everything ROW_PUSH can answer after its phase and entry checks. -/
theorem pushRow_next {s t : State} (h : pushRow s = .next t) :
    (s.rowBytes.toNat ≤ s.rowWptr.toNat ∧ t = { s with err := .seq, phase := .failed }) ∨
    (s.rowWptr.toNat < s.rowBytes.toNat ∧ s.rowWptr.toNat + 3 < s.params.rowbufBytes ∧
      t = { pushBytes s with phase := .decode, rowWptr := s.rowWptr + 4 }) := by
  unfold pushRow at h
  split at h
  · next hw => exact .inl ⟨hw, by simpa using h.symm⟩
  · split at h
    · next hw hb => exact .inr ⟨by omega, hb, by simpa using h.symm⟩
    · cases h

/-- Everything ROW_PUSH can answer (40_session.md R107). -/
theorem execRowPush_next {s t : State} (h : execRowPush s = .next t) :
    (s.phase = .failed ∧ t = s) ∨
    (s.phase ≠ .failed ∧ ∃ e, e ≠ .noError ∧ t = { s with err := e, phase := .failed }) ∨
    ((s.phase = .decode ∨ s.phase = .config ∧ enterDecode s = none) ∧ s.rowWptr.toNat < s.rowBytes.toNat ∧
      s.rowWptr.toNat + 3 < s.params.rowbufBytes ∧
      t = { pushBytes s with phase := .decode, rowWptr := s.rowWptr + 4 }) := by
  rcases unlessFailed_next h with h | ⟨hf, h⟩
  · exact .inl h
  have push : ∀ hp : (s.phase = .decode ∨ s.phase = .config ∧ enterDecode s = none), pushRow s = .next t →
      (s.phase ≠ .failed ∧ ∃ e, e ≠ .noError ∧ t = { s with err := e, phase := .failed }) ∨
      ((s.phase = .decode ∨ s.phase = .config ∧ enterDecode s = none) ∧ s.rowWptr.toNat < s.rowBytes.toNat ∧
        s.rowWptr.toNat + 3 < s.params.rowbufBytes ∧
        t = { pushBytes s with phase := .decode, rowWptr := s.rowWptr + 4 }) := by
    intro hp h
    rcases pushRow_next h with ⟨_, h⟩ | h
    · exact .inl ⟨hf, .seq, by decide, h⟩
    · exact .inr ⟨hp, h⟩
  split at h
  · next hp =>
    split at h
    · next e he =>
      refine .inr (.inl ⟨hf, e, ?_, by simpa using h.symm⟩)
      rintro rfl
      simp only [enterDecode] at he
      split_ifs at he <;> simp at he
    · next he => exact .inr (push (.inr ⟨hp, he⟩) h)
  · next hp => exact .inr (push (.inl hp) h)
  all_goals exact .inr (.inl ⟨hf, .seq, by decide, by simpa using h.symm⟩)

theorem storeRow_inStores {n : Nat} {s : State} (pixel : State → Nat → Pixel) (h : rowInStores n s) :
    storeRow n pixel s = .next (rowStored pixel s) := if_pos h

theorem storeRow_next {n : Nat} {pixel : State → Nat → Pixel} {s t : State} (h : storeRow n pixel s = .next t) :
    rowInStores n s ∧ t = rowStored pixel s := by
  unfold storeRow at h
  split at h
  · next hr => exact ⟨hr, by simpa using h.symm⟩
  · cases h

/-- Everything a DECn can answer (42_scanline_decoders.md R163). -/
theorem decodeRow_next {n : Nat} {pixel : State → Nat → Pixel} {s t : State} (h : decodeRow n pixel s = .next t) :
    (s.phase = .failed ∧ t = s) ∨
    (s.phase ≠ .failed ∧ ∃ e, e ≠ .noError ∧ t = { s with err := e, phase := .failed }) ∨
    ((s.phase = .decode ∨ s.phase = .config ∧ enterDecode s = none) ∧ s.bpp.toNat = n ∧ s.rowWptr = s.rowBytes ∧
      rowInStores n s ∧ t = rowStored pixel s) := by
  rcases unlessFailed_next h with h | ⟨hf, h⟩
  · exact .inl h
  refine .inr ?_
  have full : ∀ hp : (s.phase = .decode ∨ s.phase = .config ∧ enterDecode s = none), s.bpp.toNat = n →
      decodeFullRow n pixel s = .next t →
      (s.phase ≠ .failed ∧ ∃ e, e ≠ .noError ∧ t = { s with err := e, phase := .failed }) ∨
      ((s.phase = .decode ∨ s.phase = .config ∧ enterDecode s = none) ∧ s.bpp.toNat = n ∧ s.rowWptr = s.rowBytes ∧
        rowInStores n s ∧ t = rowStored pixel s) := by
    intro hp hn h
    unfold decodeFullRow at h
    split at h
    · exact .inl ⟨hf, .ioRow, by decide, by simpa using h.symm⟩
    · next hw => exact .inr ⟨hp, hn, not_not.mp hw, storeRow_next h⟩
  split at h
  · exact .inl ⟨hf, .seq, by decide, by simpa using h.symm⟩
  · next hp =>
    split at h
    · exact .inl ⟨hf, .seq, by decide, by simpa using h.symm⟩
    · next hn =>
      split at h
      · next hc =>
        split at h
        · next e he =>
          refine .inl ⟨hf, e, ?_, by simpa using h.symm⟩
          rintro rfl
          simp only [enterDecode] at he
          split_ifs at he <;> simp at he
        · next he => exact full (.inr ⟨hc, he⟩) (not_not.mp hn) h
      · next hc => exact full (.inl ((not_not.mp hp).resolve_left hc)) (not_not.mp hn) h

/-- A full scanline in DECODE, inside the stores, is stored. -/
theorem decodeRow_full {n : Nat} {s : State} (pixel : State → Nat → Pixel) (hp : s.phase = .decode)
    (hn : s.bpp.toNat = n) (hw : s.rowWptr = s.rowBytes) (hr : rowInStores n s) :
    decodeRow n pixel s = .next (rowStored pixel s) := by
  simp [decodeRow, unlessFailed, decodeFullRow, hp, hn, hw, storeRow_inStores pixel hr]

/-! ## Read-back -/

/-- The coordinate check of PIX_RD and IDX_RD (43_readback.md R204, R205). -/
theorem insideImage_iff (s : State) :
    insideImage s = true ↔ s.arg0.toNat < s.cfgWidth.toNat ∧ s.arg1.toNat < s.rowsTotal.toNat := by
  simp only [insideImage, Bool.and_eq_true, decide_eq_true_eq]

/-! ## The bus -/

/-- Everything an access to the window can be. -/
theorem onBus_next {width addr : Nat} {s t : State} {k : Nat → Result} (h : onBus width addr s k = .next t) :
    ∃ off, addr = s.params.baseAddr + off ∧ off < 4096 ∧ off % 4 = 0 ∧ width = 4 ∧ k off = .next t := by
  unfold onBus at h
  split at h
  · cases h
  · next hw =>
    split at h
    · cases h
    · next hc =>
      simp only [Config.windowBytes] at hw
      refine ⟨addr - s.params.baseAddr, by omega, by omega, by omega, by omega, h⟩

/-- What a session register reads as, by the phase (10_state.md R27). -/
theorem sessionRead_eq (v : Word) (s : State) :
    sessionRead v s = if s.phase = .idle ∨ s.phase = .failed then 0 else v := by
  cases h : s.phase <;> simp [sessionRead, h]

/-- A session that has failed reads 0 (R27, 60_exceptions.md R224). -/
@[simp] theorem sessionRead_failed (v : Word) {s : State} (h : s.phase = .failed) : sessionRead v s = 0 := by
  simp [sessionRead_eq, h]

/-- No session, nothing to read (R27). -/
@[simp] theorem sessionRead_idle (v : Word) {s : State} (h : s.phase = .idle) : sessionRead v s = 0 := by
  simp [sessionRead_eq, h]

/-- A configured session reads what it holds (R27). -/
theorem sessionRead_configured (v : Word) {s : State} (hi : s.phase ≠ .idle) (hf : s.phase ≠ .failed) : sessionRead v s = v := by
  simp [sessionRead_eq, hi, hf]

theorem onBus_inContract {width addr off : Nat} {s : State} {k : Nat → Result} (ha : addr = s.params.baseAddr + off)
    (ho : off < 4096) (hm : off % 4 = 0) (hw : width = 4) : onBus width addr s k = k off := by
  subst ha
  have h1 : ¬ Config.windowBytes ≤ off := by
    simp only [Config.windowBytes]
    omega
  simp [onBus, h1, hm, hw]

/-- The oldest input is taken. -/
theorem step_cons {s : State} {a : Access} {rest : List Access} (hp : s.pending = a :: rest) :
    step s = takeInput a { s with pending := rest } := by
  simp only [step, hp]

/-- A read in the contract is the next step (R62). -/
theorem step_read {s : State} {rest : List Access} {off : Nat}
    (hp : s.pending = .read 4 (s.params.baseAddr + off) :: rest) (ho : off < 4096) (hm : off % 4 = 0) :
    step s = .next { s with pending := rest, readData := some (memRead off { s with pending := rest }) } := by
  rw [step_cons hp]
  simp only [takeInput]
  rw [onBus_inContract (addr := s.params.baseAddr + off) (s := { s with pending := rest }) rfl ho hm rfl]

/-- A write in the contract is the next step (R62). -/
theorem step_write {s : State} {rest : List Access} {off : Nat} {v : Word}
    (hp : s.pending = .write 4 (s.params.baseAddr + off) v :: rest) (ho : off < 4096) (hm : off % 4 = 0) :
    step s = memWrite off v { s with pending := rest } := by
  rw [step_cons hp]
  simp only [takeInput]
  rw [onBus_inContract (addr := s.params.baseAddr + off) (s := { s with pending := rest }) rfl ho hm rfl]

/-- Everything a MemWrite can do (20_memory.md R63). -/
theorem memWrite_next {off : Nat} {v : Word} {s t : State} (h : memWrite off v s = .next t) :
    (off = 0x008 ∧ performCmd v s = .next t) ∨ t = s ∨ t = { s with arg0 := v } ∨ t = { s with arg1 := v } ∨
      t = { s with arg2 := v } := by
  unfold memWrite at h
  split at h
  · next hr =>
    refine .inl ⟨?_, h⟩
    unfold regAt at hr
    split at hr <;> simp_all
  all_goals (cases h; simp)

/-- Everything a step can do (00_scope.md R15). -/
theorem step_next {s t : State} (h : step s = .next t) :
    (s.pending = [] ∧ t = s) ∨
    ∃ a rest, s.pending = a :: rest ∧ takeInput a { s with pending := rest } = .next t := by
  unfold step at h
  split at h
  · next hp => exact .inl ⟨hp, by simpa using h.symm⟩
  · next a rest hp => exact .inr ⟨a, rest, hp, h⟩

end Sys2Proof.Machine
end

