-- ==== Sys2Proof/Laws/Exec.lean ====
section
/-! SUPPORT. Everything a command can do, said once: `Effect i s t` lists the ways exec may answer a next state t, and
`exec_effect` is the inversion lemma that proofs over all commands split on. -/

namespace Sys2Proof.Machine

/-- The depth and the pixel function of each decoder (42_scanline_decoders.md R170 to R175). -/
def decoderTable : List (Instr × Nat × (State → Nat → Pixel)) :=
  [(.dec1, 1, pixelIndexed 1), (.dec4, 4, pixelIndexed 4), (.dec8, 8, pixelIndexed 8), (.dec16, 16, pixel16),
    (.dec24, 24, pixel24), (.dec32, 32, pixel32)]

/-- The checks of CFG (40_session.md R102), all passed. -/
structure CfgOk (bpp : Nat) (s : State) : Prop where
  depth : supportedDepth bpp = true
  width : 0 < s.arg0.toInt ∧ s.arg0.toInt ≤ (s.params.maxWidth : Int)
  height : s.arg1.toInt ≠ 0 ∧ s.arg1.toInt.natAbs ≤ s.params.maxHeight
  row : rowBytesOf s.arg0.toInt.toNat bpp ≤ s.params.rowbufBytes

/-- The ways a command ends in a next state. -/
inductive Effect (s : State) : Instr → State → Prop where
  | ignored (i : Instr) (hp : s.phase = .failed) (h : ∀ bpp bf, i ≠ .cfg bpp bf) : Effect s i s
  | nop : Effect s .nop s
  | errorEntry (i : Instr) (e : ErrCode) (hp : s.phase ≠ .failed) (he : e ≠ .noError) (h : ∀ bpp bf, i ≠ .cfg bpp bf) :
      Effect s i { s with err := e, phase := .failed }
  | reset : Effect s .reset (clearSession s)
  | cfgFails (bpp : Nat) (bf : Bool) (e : ErrCode) (he : e ≠ .noError) :
      Effect s (.cfg bpp bf) { clearSession s with err := e, phase := .failed }
  | cfgPasses (bpp : Nat) (bf : Bool) (h : CfgOk bpp s) : Effect s (.cfg bpp bf) (loadSession bpp bf (clearSession s))
  | maskLoaded (ch : Channel) (hp : s.phase = .config) (hb : s.bf = true) :
      Effect s (.maskWr ch) { setMask ch s.arg0 s with maskValid := markMaskValid ch s.maskValid }
  | entryStored (hp : s.phase = .config) (hc : s.palCnt.toNat < s.palLen.toNat) (hd : s.palCnt.toNat < Config.palDepth) :
      Effect s .palPush { setPalEntry s.palCnt.toNat (paletteEntry s.arg0) s with palCnt := s.palCnt + 1 }
  | entryDiscarded (hp : s.phase = .config) (hc : s.palCnt.toNat < s.palLen.toNat)
      (hd : Config.palDepth ≤ s.palCnt.toNat) : Effect s .palPush { s with palCnt := s.palCnt + 1 }
  | bytesPushed (hp : s.phase = .decode ∨ s.phase = .config ∧ enterDecode s = none)
      (hw : s.rowWptr.toNat < s.rowBytes.toNat) (hb : s.rowWptr.toNat + 3 < s.params.rowbufBytes) :
      Effect s .rowPush { pushBytes s with phase := .decode, rowWptr := s.rowWptr + 4 }
  | result (i : Instr) (hp : s.phase ≠ .failed) (hi : i ∈ [Instr.palRd, .pixRd, .idxRd, .maskAn, .chx16, .chx32])
      (a b c : Word) : Effect s i (setResult a b c s)
  | rowDecoded (i : Instr) (n : Nat) (pixel : State → Nat → Pixel) (hi : (i, n, pixel) ∈ decoderTable)
      (hp : s.phase = .decode ∨ s.phase = .config ∧ enterDecode s = none) (hn : s.bpp.toNat = n)
      (hw : s.rowWptr = s.rowBytes) (hr : rowInStores n s) : Effect s i (rowStored pixel s)

/-- The decoders run through the common step. -/
theorem exec_decoder {i : Instr} {n : Nat} {pixel : State → Nat → Pixel} (h : (i, n, pixel) ∈ decoderTable) (s : State) :
    exec i s = decodeRow n pixel s := by
  have row : ∀ d ∈ decoderTable, exec d.1 s = decodeRow d.2.1 d.2.2 s := by
    simp only [decoderTable, List.forall_mem_cons]
    repeat' constructor
    exact fun _ hd => nomatch hd
  exact row _ h

theorem decodeRow_effect {i : Instr} {n : Nat} {pixel : State → Nat → Pixel} (hi : (i, n, pixel) ∈ decoderTable)
    (hc : ∀ bpp bf, i ≠ .cfg bpp bf) {s t : State} (h : decodeRow n pixel s = .next t) : Effect s i t := by
  rcases decodeRow_next h with ⟨hp, rfl⟩ | ⟨hp, e, he, rfl⟩ | ⟨hp, hn, hw, hr, rfl⟩
  · exact .ignored i hp hc
  · exact .errorEntry i e hp he hc
  · exact .rowDecoded i n pixel hi hp hn hw hr

/-- CFG (40_session.md R102). -/
theorem execCfg_effect {bpp : Nat} {bf : Bool} {s t : State} (h : execCfg bpp bf s = .next t) :
    Effect s (.cfg bpp bf) t := by
  unfold execCfg signedArg at h
  dsimp only at h
  split at h
  · cases h; exact .cfgFails bpp bf _ (by decide)
  split at h
  · cases h; exact .cfgFails bpp bf _ (by decide)
  split at h
  · cases h; exact .cfgFails bpp bf _ (by decide)
  next h1 h2 h3 => cases h; exact .cfgPasses bpp bf ⟨by simpa using h1, by omega, by omega, by omega⟩

/-- A read-back result is a `setResult` (43_readback.md R201). -/
theorem setPixelResult_effect {s : State} {i : Instr} (hp : s.phase ≠ .failed)
    (hi : i ∈ [Instr.palRd, .pixRd, .idxRd, .maskAn, .chx16, .chx32]) (p : Pixel) : Effect s i (setPixelResult p s) := by
  obtain ⟨a, b, c, h⟩ := setPixelResult_frame p s
  exact h ▸ .result i hp hi a b c

/-- Everything a command can do (60_exceptions.md R225): the inversion lemma of exec. -/
theorem exec_effect {i : Instr} {s t : State} (h : exec i s = .next t) : Effect s i t := by
  cases i with
  | nop => cases h; exact .nop
  | reset => cases h; exact .reset
  | cfg bpp bf => exact execCfg_effect h
  | rowPush =>
    rcases execRowPush_next h with ⟨hp, rfl⟩ | ⟨hp, e, he, rfl⟩ | ⟨hp, hw, hb, rfl⟩
    · exact .ignored _ hp (by simp)
    · exact .errorEntry _ e hp he (by simp)
    · exact .bytesPushed hp hw hb
  | maskWr ch =>
    rcases unlessFailed_next h with ⟨hp, rfl⟩ | ⟨hp, h⟩
    · exact .ignored _ hp (by simp)
    split_ifs at h with h1 h2
    · cases h; exact .errorEntry _ .seq hp (by decide) (by simp)
    · cases h; exact .errorEntry _ .seq hp (by decide) (by simp)
    · cases h; exact .maskLoaded ch (not_not.mp h1) (not_not.mp h2)
  | palPush =>
    rcases unlessFailed_next h with ⟨hp, rfl⟩ | ⟨hp, h⟩
    · exact .ignored _ hp (by simp)
    split_ifs at h with h1 h2 h3
    · cases h; exact .errorEntry _ .seq hp (by decide) (by simp)
    · cases h; exact .errorEntry _ .seq hp (by decide) (by simp)
    · cases h; exact .entryStored (not_not.mp h1) (by omega) h3
    · cases h; exact .entryDiscarded (not_not.mp h1) (by omega) (by omega)
  | palRd =>
    rcases unlessFailed_next h with ⟨hp, rfl⟩ | ⟨hp, h⟩
    · exact .ignored _ hp (by simp)
    split_ifs at h
    · cases h; exact .errorEntry _ .seq hp (by decide) (by simp)
    · cases h; exact .errorEntry _ .range hp (by decide) (by simp)
    · cases h; exact .result _ hp (by simp) _ _ _
  | pixRd =>
    rcases unlessFailed_next h with ⟨hp, rfl⟩ | ⟨hp, h⟩
    · exact .ignored _ hp (by simp)
    split_ifs at h
    · cases h; exact .errorEntry _ .seq hp (by decide) (by simp)
    · cases h; exact .errorEntry _ .range hp (by decide) (by simp)
    · split at h
      · split at h
        · cases h; exact setPixelResult_effect hp (by simp) _
        · cases h; exact .errorEntry _ .palIndex hp (by decide) (by simp)
      · cases h; exact setPixelResult_effect hp (by simp) _
      · cases h; exact setPixelResult_effect hp (by simp) _
      · cases h
  | idxRd =>
    rcases unlessFailed_next h with ⟨hp, rfl⟩ | ⟨hp, h⟩
    · exact .ignored _ hp (by simp)
    split_ifs at h
    · cases h; exact .errorEntry _ .seq hp (by decide) (by simp)
    · cases h; exact .errorEntry _ .range hp (by decide) (by simp)
    · split at h
      · cases h; exact setPixelResult_effect hp (by simp) _
      all_goals cases h
  | maskAn =>
    rcases unlessFailed_next h with ⟨hp, rfl⟩ | ⟨hp, h⟩
    · exact .ignored _ hp (by simp)
    · cases h; exact .result _ hp (by simp) _ _ _
  | chx16 =>
    rcases unlessFailed_next h with ⟨hp, rfl⟩ | ⟨hp, h⟩
    · exact .ignored _ hp (by simp)
    split_ifs at h
    · cases h; exact .errorEntry _ .mask hp (by decide) (by simp)
    · cases h; exact .result _ hp (by simp) _ _ _
  | chx32 =>
    rcases unlessFailed_next h with ⟨hp, rfl⟩ | ⟨hp, h⟩
    · exact .ignored _ hp (by simp)
    split_ifs at h
    · cases h; exact .errorEntry _ .mask hp (by decide) (by simp)
    · cases h; exact .result _ hp (by simp) _ _ _
  | dec1 => exact decodeRow_effect (.head _) (by simp) h
  | dec4 => exact decodeRow_effect (.tail _ (.head _)) (by simp) h
  | dec8 => exact decodeRow_effect (.tail _ (.tail _ (.head _))) (by simp) h
  | dec16 => exact decodeRow_effect (.tail _ (.tail _ (.tail _ (.head _)))) (by simp) h
  | dec24 => exact decodeRow_effect (.tail _ (.tail _ (.tail _ (.tail _ (.head _))))) (by simp) h
  | dec32 => exact decodeRow_effect (.tail _ (.tail _ (.tail _ (.tail _ (.tail _ (.head _)))))) (by simp) h

/-- Everything a step can do, down to the command of a CMD write (60_exceptions.md R225). -/
theorem step_effect {s t : State} (h : step s = .next t) :
    (s.pending = [] ∧ t = s) ∨
    ∃ a rest, s.pending = a :: rest ∧
      ((a = .hardwareReset ∧ t = hardwareReset { s with pending := rest }) ∨
       (∃ off, a = .read 4 (s.params.baseAddr + off) ∧ off < 4096 ∧ off % 4 = 0 ∧
          t = { s with pending := rest, readData := some (memRead off { s with pending := rest }) }) ∨
       (∃ off v, a = .write 4 (s.params.baseAddr + off) v ∧ off < 4096 ∧ off % 4 = 0 ∧
          ((off = 0x008 ∧ ∃ i, decode v = .legal i ∧ Effect { s with pending := rest } i t) ∨
           (off = 0x008 ∧ ∃ why, decode v = .illegal why ∧
             ((s.phase = .failed ∧ t = { s with pending := rest }) ∨
              (s.phase ≠ .failed ∧ t = { s with pending := rest, err := .illegal, phase := .failed }))) ∨
           (off ≠ 0x008 ∧ ∃ a0 a1 a2, t = { s with pending := rest, arg0 := a0, arg1 := a1, arg2 := a2 })))) := by
  rcases step_next h with h | ⟨a, rest, hp, h⟩
  · exact .inl h
  refine .inr ⟨a, rest, hp, ?_⟩
  cases a with
  | hardwareReset => exact .inl ⟨rfl, by simpa [takeInput] using h.symm⟩
  | read width addr =>
    unfold takeInput at h
    obtain ⟨off, ha, ho, hm, hw, h⟩ := onBus_next h
    exact .inr (.inl ⟨off, by rw [ha, hw], ho, hm, by simpa using h.symm⟩)
  | write width addr v =>
    unfold takeInput at h
    obtain ⟨off, ha, ho, hm, hw, h⟩ := onBus_next h
    refine .inr (.inr ⟨off, v, by rw [ha, hw], ho, hm, ?_⟩)
    by_cases h8 : off = 0x008
    · subst h8
      simp only [memWrite, regAt, performCmd] at h
      split at h
      · next i hi => exact .inl ⟨rfl, i, hi, exec_effect h⟩
      · next why hi =>
        refine .inr (.inl ⟨rfl, why, hi, ?_⟩)
        rcases unlessFailed_next h with ⟨hf, h⟩ | ⟨hf, h⟩
        · exact .inl ⟨hf, h⟩
        · exact .inr ⟨hf, by simpa using h.symm⟩
    · refine .inr (.inr ⟨h8, ?_⟩)
      rcases memWrite_next h with ⟨h, _⟩ | h | h | h | h
      · exact absurd h h8
      · exact ⟨s.arg0, s.arg1, s.arg2, h⟩
      · exact ⟨v, s.arg1, s.arg2, h⟩
      · exact ⟨s.arg0, v, s.arg2, h⟩
      · exact ⟨s.arg0, s.arg1, v, h⟩

end Sys2Proof.Machine
end

