-- ==== Sys2Proof/Laws/PerInstr.lean ====
section
/-! SUPPORT. The family `Opcode` of statements about a command as syntax, one lemma per constructor of Instr: where its opcode
and its immediate field stand in its command word (30_encoding.md R80, R83). -/

namespace Sys2Proof.Laws.Opcode

/-- OP in bits [31:24], IMM in bits [23:0], as numbers (R80). -/
def Statement (i : Instr) : Prop :=
  (encode i).toNat / 2 ^ 24 = (opcode i).toNat ∧ (encode i).toNat % 2 ^ 24 = (immediate i).toNat

/-- Putting the two fields together and taking them apart (R80). -/
theorem fields (i : Instr) : Statement i := by
  have hlt : (immediate i).toNat < 2 ^ 24 := (immediate i).isLt
  have h : (encode i).toNat = (opcode i).toNat * 2 ^ 24 + (immediate i).toNat := by
    rw [← Nat.shiftLeft_eq, Nat.shiftLeft_add_eq_or_of_lt hlt]
    exact BitVec.toNat_append (opcode i) (immediate i)
  constructor <;> omega

theorem nop : Statement .nop := fields _
theorem reset : Statement .reset := fields _
theorem cfg (bpp : Nat) (bf : Bool) : Statement (.cfg bpp bf) := fields _
theorem maskWr (ch : Channel) : Statement (.maskWr ch) := fields _
theorem palPush : Statement .palPush := fields _
theorem rowPush : Statement .rowPush := fields _
theorem palRd : Statement .palRd := fields _
theorem pixRd : Statement .pixRd := fields _
theorem idxRd : Statement .idxRd := fields _
theorem maskAn : Statement .maskAn := fields _
theorem chx16 : Statement .chx16 := fields _
theorem chx32 : Statement .chx32 := fields _
theorem dec1 : Statement .dec1 := fields _
theorem dec4 : Statement .dec4 := fields _
theorem dec8 : Statement .dec8 := fields _
theorem dec16 : Statement .dec16 := fields _
theorem dec24 : Statement .dec24 := fields _
theorem dec32 : Statement .dec32 := fields _

end Sys2Proof.Laws.Opcode
end

