-- ==== Sys2Proof/Tests/Slice0.lean ====
section
/-! SUPPORT. The model's own tests: well-formedness, words written out from the encoding tables, one step of each command against
the vectors of 95_test_vectors.md, and a witness for the hypotheses of each statement of Certificates/Slice0/Obligations.lean. -/

namespace Sys2Proof.Tests

open Sys2Proof Sys2Proof.Machine

/-! ## Small states -/

/-- What is seen of an outcome's next state; nothing of a fault or a refusal. -/
def seen {α : Type} (o : Result) (f : State → α) : Option α :=
  match o with
  | .next t => some (f t)
  | .fault _ => none
  | .refused _ => none

/-- The fault an outcome stops with. -/
def faultOf (o : Result) : Option Fault :=
  match o with
  | .fault r => some r
  | .next _ => none
  | .refused _ => none

/-- A CONFIG session of one row and CLR_USED = 1, its palette complete (entry 0 black), masks at the defaults. -/
def session (bpp : Nat) (width rowBytes : Word) : State :=
  { State.reset with
    phase := .config, maskValid := 0xF, indexed := indexedDepth bpp, bpp := BitVec.ofNat 8 bpp
    cfgWidth := width, cfgHeight := 1, clrUsed := 1, palLen := 1, palCnt := 1, rowBytes := rowBytes, rowsTotal := 1
    maskR := defaultMask bpp .r, maskG := defaultMask bpp .g, maskB := defaultMask bpp .b, maskA := defaultMask bpp .a }

/-- The one-pixel session of a depth. -/
def tiny (bpp : Nat) : State := session bpp 1 4

/-- ROWBUF with these bytes from index k on. -/
def bytesFrom (k : Nat) : List Byte → List Host.Cell
  | [] => []
  | b :: rest => if b = 0 then bytesFrom (k + 1) rest else (k, b) :: bytesFrom (k + 1) rest

/-- A session in DECODE with a full scanline. -/
def full (s : State) (row : List Byte) : State :=
  { s with phase := .decode, rowbuf := bytesFrom 0 row, rowWptr := s.rowBytes }

/-- The one-pixel session in DONE, holding one pixel. -/
def tinyDone (bpp : Nat) (p : Pixel) : State :=
  { tiny bpp with phase := .done, srcRow := 1, img := [(imgKey 0 0, p)] }

/-- The pixels of row 0. -/
def row0 (w : Nat) (t : State) : List (Option Pixel) := (List.range w).map (fun x => imgCell x 0 t)

/-! ## Well-formedness -/

theorem test_wellFormed_refuses_a_bpp_wider_than_its_field : ¬ WellFormed (.cfg 256 false) := by decide
theorem test_wellFormed_takes_the_widest_bpp : WellFormed (.cfg 255 true) := by decide

/-! ## Decoding: words written out from R80 to R83 -/

theorem test_decode_session_words :
    decode 0b00000000000000000000000000000000 = .legal .nop ∧
    decode 0b00000001000000000000000000000000 = .legal .reset ∧
    decode 0b00000010000000000000000100010000 = .legal (.cfg 16 true) ∧
    decode 0b00000010000000000000000000100000 = .legal (.cfg 32 false) := by decide

theorem test_decode_loading_words :
    decode 0b00000011000000000000000000000000 = .legal (.maskWr .r) ∧
    decode 0b00000011000000000000000000000001 = .legal (.maskWr .g) ∧
    decode 0b00000011000000000000000000000010 = .legal (.maskWr .b) ∧
    decode 0b00000011000000000000000000000011 = .legal (.maskWr .a) ∧
    decode 0b00000100000000000000000000000000 = .legal .palPush ∧
    decode 0b00000101000000000000000000000000 = .legal .rowPush := by decide

theorem test_decode_readback_words :
    decode 0b00000110000000000000000000000000 = .legal .palRd ∧
    decode 0b00000111000000000000000000000000 = .legal .pixRd ∧
    decode 0b00001000000000000000000000000000 = .legal .idxRd := by decide

theorem test_decode_extractor_words :
    decode 0b00001001000000000000000000000000 = .legal .maskAn ∧
    decode 0b00001010000000000000000000000000 = .legal .chx16 ∧
    decode 0b00001011000000000000000000000000 = .legal .chx32 := by decide

theorem test_decode_scanline_words :
    decode 0b00010000000000000000000000000000 = .legal .dec1 ∧
    decode 0b00010001000000000000000000000000 = .legal .dec4 ∧
    decode 0b00010010000000000000000000000000 = .legal .dec8 ∧
    decode 0b00010011000000000000000000000000 = .legal .dec16 ∧
    decode 0b00010100000000000000000000000000 = .legal .dec24 ∧
    decode 0b00010101000000000000000000000000 = .legal .dec32 := by decide

/-- 95_test_vectors.md 2.7, the illegal rows. -/
theorem test_decode_illegal_words :
    decode 0x00000001 = .illegal .reservedField ∧ decode 0x02000200 = .illegal .reservedField ∧
    decode 0x03000004 = .illegal .reservedField ∧ decode 0x15000001 = .illegal .reservedField ∧
    decode 0x0C000000 = .illegal .unassignedOpcode ∧ decode 0x0F000000 = .illegal .unassignedOpcode ∧
    decode 0x16000000 = .illegal .unassignedOpcode ∧ decode 0xFF000000 = .illegal .unassignedOpcode := by decide

theorem test_decodeTableWord :
    decodeTableWord 32 0x02000110 = some (.cfg 16 true) ∧ decodeTableWord 32 0x16000000 = none := by decide

/-! ## One step of each command (values of 95_test_vectors.md) -/

/-- R100: NOP leaves a failed session failed. -/
theorem test_nop : seen (exec .nop { tiny 8 with phase := .failed, err := .seq }) statusWord = some 0x000018F4 := by decide

/-- R101, from FAILED; ARG0 stays. -/
theorem test_reset :
    seen (exec .reset { tiny 8 with phase := .failed, err := .seq, arg0 := 7 })
      (fun t => (statusWord t, t.arg0, t.palLen, t.rowBytes)) = some (0, 7, 0, 0) := by decide

/-- 2.9, first row. -/
theorem test_cfg_8 :
    seen (exec (.cfg 8 false) { State.reset with arg0 := 2, arg1 := 2 })
      (fun t => (statusWord t, modeWord t, t.palLen, t.rowBytes, t.rowsTotal, memRead 0x060 t)) =
      some (0x000010F1, 0x008, 256, 4, 2, 0x00010000) := by decide

/-- 2.9: the most negative height is a capacity error. -/
theorem test_cfg_capacity :
    seen (exec (.cfg 8 false) { State.reset with arg0 := 1, arg1 := 0x80000000 }) statusWord = some 0x00000304 := by decide

/-- 2.9: MASK_WR R with ARG0 = 0xF800. -/
theorem test_maskWr :
    seen (exec (.maskWr .r) { session 16 1 4 with bf := true, maskValid := 0, maskR := 0, arg0 := 0xF800 })
      (fun t => (t.maskR, memRead 0x060 t, t.maskValid, t.maskG)) = some (0xF800, 0x0001050B, 1, 0x07E0) := by decide

/-- 2.9: PAL[1] = (1, 1, 1), the reserved byte dropped. -/
theorem test_palPush :
    seen (exec .palPush { tiny 8 with palLen := 2, arg0 := 0xAB010203 })
      (fun t => (palEntry 1 t, t.palCnt)) = some ({ r := 1, g := 2, b := 3 }, 2) := by decide

/-- 2.9: entry 256 is counted and discarded. -/
theorem test_palPush_beyond_256 :
    seen (exec .palPush { tiny 8 with palLen := 300, palCnt := 256, arg0 := 0x00FFFFFF })
      (fun t => (t.palette, t.palCnt)) = some ([], 257) := by decide

/-- 2.9: the first push of a row. -/
theorem test_rowPush :
    seen (exec .rowPush { session 24 2 8 with arg0 := 0x04030201 })
      (fun t => (statusWord t, t.rowbuf, t.rowWptr)) =
      some (0x000000F2, [(0, 1), (1, 2), (2, 3), (3, 4)], 4) := by decide

/-- 2.9: the overrun. -/
theorem test_rowPush_overrun : seen (exec .rowPush (full (tiny 24) [])) statusWord = some 0x000008F4 := by decide

/-- 2.10: PAL_RD 1 of program P1, and PAL_RD 2. -/
theorem test_palRd :
    seen (exec .palRd { tinyDone 1 (.idx 1) with
      palLen := 2, palCnt := 2, palette := [(1, { r := 255, g := 255, b := 255 })], arg0 := 1 })
      (fun t => (t.res0, t.res1, t.res2)) = some (0xFFFFFFFF, 0, 0) := by decide
theorem test_palRd_range : seen (exec .palRd { tinyDone 1 (.idx 0) with arg0 := 2 }) statusWord = some 0x00001AF4 := by decide

/-- 2.10: PIX_RD (1, 0) of program P2, the pixel moved to x = 0. -/
theorem test_pixRd_c16 :
    seen (exec .pixRd (tinyDone 16 (.c16 0x8421 0x8208 0x8421 0xFFFF)))
      (fun t => (t.res0, t.res1, t.res2)) = some (0x84218208, 0x8421FFFF, 1) := by decide

/-- Program P4: an index the palette does not reach. -/
theorem test_pixRd_palIndex :
    seen (exec .pixRd { tinyDone 4 (.idx 15) with palLen := 3, palCnt := 3, res0 := 15 })
      (fun t => (statusWord t, t.res0)) = some (0x00001BF4, 15) := by decide

/-- Program P4, and 2.10: IDX_RD of a direct-colour image. -/
theorem test_idxRd :
    seen (exec .idxRd (tinyDone 4 (.idx 15))) (fun t => (t.res0, t.res1, t.res2)) = some (15, 0, 2) := by decide
theorem test_idxRd_direct :
    seen (exec .idxRd (tinyDone 16 (.c16 0 0 0 0xFFFF))) statusWord = some 0x000008F4 := by decide

/-- 2.3. -/
theorem test_maskAn : seen (exec .maskAn { State.reset with arg0 := 0x0F0F0000 }) State.res0 = some 0x00000410 := by decide
theorem test_maskAn_all_ones : seen (exec .maskAn { State.reset with arg0 := 0xFFFFFFFF }) State.res0 = some 0x00012000 := by decide

/-- 2.5 (REPLICATE). -/
theorem test_chx16 :
    seen (exec .chx16 { State.reset with arg0 := 0x1234, arg1 := 0x07E0 }) State.res0 = some 0x4514 := by decide
theorem test_chx16_mask_above_bit_15 :
    seen (exec .chx16 { State.reset with arg1 := 0x00010000 }) statusWord = some 0x00000704 := by decide

/-- 2.6. -/
theorem test_chx32 :
    seen (exec .chx32 { State.reset with arg0 := 0x20100000, arg1 := 0x3FF00000 }) State.res0 = some 0x01 := by decide
theorem test_chx32_broken_mask :
    seen (exec .chx32 { State.reset with arg1 := 0x0000000A }) statusWord = some 0x00000704 := by decide

/-- 2.8. -/
theorem test_dec1 :
    seen (exec .dec1 (full (session 1 10 4) [0xA5, 0xC0, 0, 0])) (row0 10) =
      some ([1, 0, 1, 0, 0, 1, 0, 1, 1, 1].map (fun i => some (.idx i))) := by decide
theorem test_dec4 :
    seen (exec .dec4 (full (session 4 5 4) [0x12, 0x34, 0x5F, 0])) (row0 6) =
      some [some (.idx 1), some (.idx 2), some (.idx 3), some (.idx 4), some (.idx 5), none] := by decide
theorem test_dec8 :
    seen (exec .dec8 (full (session 8 3 4) [0x07, 0x08, 0x09, 0xAA])) (fun t => (row0 4 t, statusWord t)) =
      some ([some (.idx 7), some (.idx 8), some (.idx 9), none], 0x000010F3) := by decide
theorem test_dec16 :
    seen (exec .dec16 (full (tiny 16) [0x34, 0x12, 0, 0])) (row0 1) = some [some (.c16 0x1084 0x4514 0xA529 0xFFFF)] := by decide
theorem test_dec16_555 :
    seen (exec .dec16 { full (tiny 16) [0x10, 0x42, 0, 0] with maskR := 0x7C00, maskG := 0x03E0, maskB := 0x001F }) (row0 1) =
      some [some (.c16 0x8421 0x8421 0x8421 0xFFFF)] := by decide
theorem test_dec24 :
    seen (exec .dec24 (full (session 24 2 8) [1, 2, 3, 4, 5, 6, 0, 0])) (row0 2) =
      some [some (.c8 3 2 1 0xFF), some (.c8 6 5 4 0xFF)] := by decide
theorem test_dec24_other_depth : seen (exec .dec24 (full (tiny 16) [])) statusWord = some 0x000008F4 := by decide
theorem test_dec32 :
    seen (exec .dec32 { full (tiny 32) [0, 0, 0x10, 0x20] with
      maskR := 0x3FF00000, maskG := 0x000FFC00, maskB := 0x000003FF, maskA := 0xC0000000 }) (row0 1) =
      some [some (.c8 0x01 0 0 0)] := by decide
theorem test_dec32_forced_alpha :
    seen (exec .dec32 { full (tiny 32) [0x44, 0x33, 0x22, 0x11] with
      maskR := 0x000000FF, maskG := 0x0000FF00, maskB := 0x00FF0000, maskA := 0 }) (row0 1) =
      some [some (.c8 0x44 0x33 0x22 0xFF)] := by decide

/-! ## The bus -/

/-- R62, R22: a CMD write performs the word; an illegal word is an error; a narrow write has no step. -/
theorem test_step_runs_the_word : seen (step (State.reset.withFetchWord 32 0x16000000)) statusWord = some 0x00000904 := by decide
theorem test_step_reads_id :
    seen (step { State.reset with pending := [.read 4 0x000] }) State.readData = some (some 0x424D0001) := by decide
theorem test_step_refuses_a_narrow_access :
    faultOf (step { State.reset with pending := [.write 2 0x00C 5] }) = some .outsideContract := by decide

/-- R27 to R31, R33, R36: a session that fails reads 0 where it still holds its values (R224); the counters of R32 and the masks
of R37 read on. -/
theorem test_failed_session_reads_zero :
    seen (raise .seq (session 16 1 4)) (fun t =>
      ([0x024, 0x028, 0x02C, 0x030, 0x034, 0x03C, 0x048].map (fun off => memRead off t), memRead 0x038 t, memRead 0x054 t,
        t.cfgWidth)) = some (List.replicate 7 0, 1, 0x07E0, 1) := by decide
theorem test_step_idle : seen (step State.reset) statusWord = some 0 := by decide

/-! ## Witnesses: states and operands that meet the hypotheses of each statement together

`witness_<Name>` belongs to Obligations.<Name>. A statement without hypotheses has none. -/

/-- The depths of R102. -/
def depths : List Nat := [1, 4, 8, 16, 24, 32]

/-- What the registers of a session at the default masks that has decoded no row must be, as one fact to decide. -/
abbrev FreshRegisters (s : State) : Prop :=
  (supportedDepth s.bpp.toNat = true ∧ s.indexed = indexedDepth s.bpp.toNat) ∧
  (1 ≤ s.cfgWidth.toInt ∧ s.cfgWidth.toInt ≤ (s.params.maxWidth : Int)) ∧
  (s.cfgHeight.toInt ≠ 0 ∧ s.cfgHeight.toInt.natAbs ≤ s.params.maxHeight ∧
    s.rowsTotal.toNat = s.cfgHeight.toInt.natAbs) ∧
  (s.palLen = palLenOf s.bpp.toNat s.clrUsed ∧ s.palCnt.toNat ≤ s.palLen.toNat) ∧
  (s.rowBytes.toNat = rowBytesOf s.cfgWidth.toNat s.bpp.toNat ∧ s.rowBytes.toNat ≤ s.params.rowbufBytes) ∧
  (s.rowWptr.toNat % 4 = 0 ∧ s.rowWptr.toNat ≤ s.rowBytes.toNat) ∧
  s.bf = false ∧ s.maskValid = 0xF ∧ ∀ c ∈ [Channel.r, .g, .b, .a], maskOf c s = defaultMask s.bpp.toNat c

/-- Such a session is Configured. -/
theorem configured_fresh {s : State} (hi : s.img = []) (hr : s.srcRow = 0) (h : FreshRegisters s) : Configured s := by
  obtain ⟨hd, hw, hh, hp, hb, hq, hf, hv, hm⟩ := h
  exact
    { depth := hd.1, indexed := hd.2, width := hw, height := ⟨hh.1, hh.2.1⟩, palLen := hp.1, palCnt := hp.2
      rowBytes := hb.1, rowFits := hb.2, rowWptr := hq, srcRow := by simp [hr], rowsTotal := hh.2.2
      masksDefault := fun _ => ⟨hv, fun c => hm c (by cases c <;> decide)⟩
      masksAwaited := fun h => by simp [hf] at h
      imgWritten := fun x y _ hy => by
        have h0 : s.srcRow.toNat = 0 := by rw [hr]; rfl
        unfold rowDecoded at hy
        rw [h0] at hy
        split at hy <;> omega
      imgOnly := fun k p h => by simp [hi] at h }

/-- The clauses of the invariant that speak of no session, to decide on a small state. -/
abbrev Checks (s : State) : Prop :=
  s.params.Wf ∧ s.memWf = true ∧ (∀ e ∈ s.palette, e.1 < Config.palDepth) ∧
  (∀ e ∈ s.rowbuf, e.1 < s.params.rowbufBytes) ∧ (s.phase = .failed ↔ s.err ≠ .noError)

/-- The invariant from those, and from what the phase says. -/
theorem inv_of_checks {s : State} (h : Checks s) (hs : PhaseInv s) : Inv s :=
  { params := h.1, memory := h.2.1, paletteBound := h.2.2.1, rowbufBound := h.2.2.2.1, failedHasError := h.2.2.2.2
    session := hs }

/-- The one-pixel session of every depth meets the invariant in CONFIG, and passes the entry check. -/
theorem tiny_inv (n : Nat) (h : n ∈ depths) : Inv (tiny n) ∧ enterDecode (tiny n) = none := by
  simp only [depths, List.mem_cons, List.not_mem_nil, or_false] at h
  rcases h with rfl | rfl | rfl | rfl | rfl | rfl <;>
    exact ⟨inv_of_checks (by decide) ⟨configured_fresh rfl rfl (by decide), rfl, rfl⟩, by decide⟩

/-- The same session in DECODE, with a scanline of zeros complete. -/
theorem tinyFull_inv (n : Nat) (h : n ∈ depths) : Inv (full (tiny n) []) := by
  simp only [depths, List.mem_cons, List.not_mem_nil, or_false] at h
  rcases h with rfl | rfl | rfl | rfl | rfl | rfl <;>
    exact inv_of_checks (by decide) ⟨configured_fresh rfl rfl (by decide), by decide⟩

/-- The same session in DONE, at depth 8, holding index 0. -/
theorem tinyDone_inv : Inv (tinyDone 8 (.idx 0)) := by
  refine inv_of_checks (by decide) ⟨?_, by decide⟩
  have hx : ∀ x : Nat, x < (tinyDone 8 (.idx 0)).cfgWidth.toNat → x = 0 := fun x h => by
    have : (tinyDone 8 (.idx 0)).cfgWidth.toNat = 1 := by decide
    omega
  have hy : ∀ y : Nat, rowDecoded (tinyDone 8 (.idx 0)) y → y = 0 := fun y h => by
    have h : (1 : Int) - 1 ≤ (y : Int) ∧ (y : Int) < 1 := h
    omega
  exact
    { depth := by decide, indexed := by decide, width := by decide, height := by decide, palLen := by decide
      palCnt := by decide, rowBytes := by decide, rowFits := by decide, rowWptr := by decide, srcRow := by decide
      rowsTotal := by decide
      masksDefault := fun _ => ⟨rfl, fun c => by cases c <;> decide⟩
      masksAwaited := fun h => by cases h
      imgWritten := fun x y h1 h2 => by
        rw [hx x h1, hy y h2]
        exact ⟨.idx 0, by decide, by decide, by decide⟩
      imgOnly := fun k p h => by
        by_cases hk : imgKey 0 0 = k
        · exact ⟨0, 0, hk.symm, by decide, by show (1 : Int) - 1 ≤ 0 ∧ (0 : Int) < 1; omega⟩
        · simp [tinyDone, Memory.find, hk] at h }

/-- A state that has just been reset, with one input waiting. -/
def waiting (a : Access) : State := { State.reset with pending := [a] }

/-- It meets the invariant whatever waits. -/
theorem waiting_inv (a : Access) : Inv (waiting a) := by
  refine inv_of_checks (by show Checks State.reset; decide) (show Cleared (waiting a) from ?_)
  constructor <;> first | rfl | exact fun c => by cases c <;> rfl

theorem witness_DecodeOfEncodeIsTheInstruction : WellFormed (.cfg 255 true) ∧ WellFormed .nop := by decide

theorem witness_LegalWordIsTheEncodingOfItsInstruction : decode 0x020000FF = .legal (.cfg 255 false) := by decide

theorem witness_CmdWritePerformsTheDecodedCommand :
    (waiting (.write 4 0x008 0x02000110)).pending =
      [.write 4 ((waiting (.write 4 0x008 0x02000110)).params.baseAddr + 0x008) 0x02000110] ∧
    decode 0x02000110 = .legal (.cfg 16 true) := by decide

theorem witness_IllegalWordRaisesIllegalUnlessFailed :
    (waiting (.write 4 0x008 0x00000001)).pending =
      [.write 4 ((waiting (.write 4 0x008 0x00000001)).params.baseAddr + 0x008) 0x00000001] ∧
    decode 0x00000001 = .illegal .reservedField := by decide

theorem witness_FailedIgnoresAllButNopResetCfg :
    ({ State.reset with phase := .failed } : State).phase = .failed ∧ Instr.dec1 ≠ .nop ∧ Instr.dec1 ≠ .reset ∧
    ∀ bpp bf, Instr.dec1 ≠ .cfg bpp bf := ⟨rfl, by decide, by decide, by simp⟩

/-- At the last offset of the window. -/
theorem witness_MemReadReturnsTheRegisterAndChangesNothing :
    (waiting (.read 4 0xFFC)).pending = [.read 4 ((waiting (.read 4 0xFFC)).params.baseAddr + 0xFFC)] ∧
    0xFFC < 4096 ∧ 0xFFC % 4 = 0 := by decide

/-- The parameters at both ends of R6; a reserved offset of each kind of the last clause. -/
theorem witness_WindowReadsTheRegisterMap :
    Config.exampleParams.Wf ∧
    (Params.mk (2 ^ 32 - 4096) (2 ^ 31 - 1) (2 ^ 31) (2 ^ 32 - 4) .lawful).Wf ∧ (Params.mk 0 1 1 4 .replicate).Wf ∧
    (0x07C > 0x078 ∧ 0x005 % 4 ≠ 0) := by decide

/-- One offset for each clause: each ARG, a read-only register, the last reserved offset. -/
theorem witness_WritesOtherThanCmdStoreOrAreIgnored :
    ∀ off ∈ [0x00C, 0x010, 0x014, 0x000, 0xFFC],
      (waiting (.write 4 off 5)).pending = [.write 4 ((waiting (.write 4 off 5)).params.baseAddr + off) 5] ∧
      off < 4096 ∧ off % 4 = 0 ∧ off ≠ 0x008 := by decide

/-- A narrow access at the first offset and a misaligned one at the last, read and written. -/
theorem witness_AccessOutsideTheContractHasNoStep :
    ∀ p ∈ [(2, 0x000), (4, 0xFFF)],
      p.2 < 4096 ∧ (p.1 ≠ 4 ∨ p.2 % 4 ≠ 0) ∧
      (waiting (.read p.1 p.2)).pending = [.read p.1 ((waiting (.read p.1 p.2)).params.baseAddr + p.2)] ∧
      (waiting (.write p.1 p.2 5)).pending = [.write p.1 ((waiting (.write p.1 p.2 5)).params.baseAddr + p.2) 5] := by
  decide

theorem witness_StepTakesInputsInOrder :
    State.reset.pending = [] ∧ ∃ t, step (waiting (.write 4 0x00C 5)) = .next t ∧ t.arg0 = 5 := ⟨rfl, _, rfl, rfl⟩

/-- A reset in the middle of a session; the first and last offsets of the second clause. -/
theorem witness_HardwareResetLeavesTheResetValues :
    ({ tiny 8 with pending := [.hardwareReset] } : State).pending = [.hardwareReset] ∧
    (0x00C ≤ 0x00C ∧ 0x00C < 0x060) ∧ (0x00C ≤ 0x05C ∧ 0x05C < 0x060) := by decide

theorem witness_ResetMeetsTheInvariant : Config.exampleParams.Wf := by decide

theorem witness_EveryStepKeepsTheInvariant :
    Inv (waiting (.write 4 0x008 0x09000000)) ∧ ∃ t, step (waiting (.write 4 0x008 0x09000000)) = .next t :=
  ⟨waiting_inv _, _, rfl⟩

theorem witness_HostKeepingTheContractIsNeverStopped :
    Inv (waiting (.write 4 0x008 0x0F000000)) ∧
    ∀ a ∈ (waiting (.write 4 0x008 0x0F000000)).pending, InContract (waiting (.write 4 0x008 0x0F000000)).params a := by
  refine ⟨waiting_inv _, fun a ha => ?_⟩
  have : a = .write 4 0x008 0x0F000000 := by simpa [waiting] using ha
  subst this
  exact ⟨rfl, by decide, by decide, by decide⟩

theorem witness_EveryStepKeepsMemoriesCanonical :
    (full (tiny 8) [1]).memWf = true ∧ ∃ t, step (full (tiny 8) [1]) = .next t := ⟨by decide, _, rfl⟩

theorem witness_CanonicalRowBuffersThatReadAlikeAreEqual :
    Memory.wf unwrittenByte [(1, 5#8)] = true ∧ Memory.wf unwrittenByte (bytesFrom 0 [0, 5]) = true ∧
    ∀ k, Memory.get unwrittenByte k [(1, 5#8)] = Memory.get unwrittenByte k (bytesFrom 0 [0, 5]) :=
  ⟨by decide, by decide, fun _ => rfl⟩

theorem witness_PhaseMovesOnlyByTheTable :
    Inv (waiting (.write 4 0x008 0x0F000000)) ∧
    ∃ t, step (waiting (.write 4 0x008 0x0F000000)) = .next t ∧ t.phase = .failed := ⟨waiting_inv _, _, rfl, rfl⟩

theorem witness_FailedSessionKeepsItsFirstError :
    let a : Access := .write 4 0x008 0x10000000
    let s : State := { waiting a with phase := .failed, err := .mask }
    s.phase = .failed ∧ s.pending = [a] ∧ (∃ t, step s = .next t) ∧ a ≠ .hardwareReset ∧
    causeOf s.params a ≠ some (.word (.legal .reset)) ∧ ∀ bpp bf, causeOf s.params a ≠ some (.word (.legal (.cfg bpp bf))) := by
  refine ⟨rfl, rfl, ⟨_, rfl⟩, by decide, by decide, fun bpp bf => ?_⟩
  have h : causeOf Config.exampleParams (.write 4 0x008 0x10000000) = some (.word (.legal .dec1)) := by decide
  exact fun hc => by cases h.symm.trans hc

theorem witness_NoCommandWritesTheArguments : ∃ t, exec .rowPush (tiny 24) = .next t ∧ t.phase = .decode := ⟨_, rfl, rfl⟩

/-- Each way into the premise: a command without a result, and a result command that fails. -/
theorem witness_OnlyResultCommandsWriteTheResults :
    (∃ t, exec .rowPush (tiny 24) = .next t ∧ t.phase = .decode) ∧
    Instr.rowPush ∉ [Instr.palRd, .pixRd, .idxRd, .maskAn, .chx16, .chx32] ∧
    ∃ t, exec .pixRd (tiny 24) = .next t ∧ t.phase = .failed := ⟨⟨_, rfl, rfl⟩, by decide, _, rfl, rfl⟩

theorem witness_EachStoreIsWrittenOnlyByItsCommands :
    ∃ t, exec .maskAn (tiny 24) = .next t ∧ Instr.maskAn ≠ .palPush ∧ Instr.maskAn ≠ .rowPush ∧ Instr.maskAn ∉ decoders ∧
      Instr.maskAn ≠ .reset ∧ ∀ bpp bf, Instr.maskAn ≠ .cfg bpp bf :=
  ⟨_, rfl, by decide, by decide, by decide, by decide, by simp⟩

theorem witness_FailingCommandChangesOnlyErrAndPhase :
    ∃ t, exec .dec24 (tiny 24) = .next t ∧ (tiny 24).phase ≠ .failed ∧ t.phase = .failed ∧
      ∀ bpp bf, Instr.dec24 ≠ .cfg bpp bf := ⟨_, rfl, by decide, rfl, by simp⟩

/-- Two reset states that differ in a palette entry nothing has pushed. -/
theorem witness_UnpushedContentsAreNeverObserved :
    let s := waiting (.write 4 0x008 0x09000000)
    let t := { s with palette := [(0, { r := 1, g := 2, b := 3 })] }
    Inv s ∧ SameButUnpushed s t ∧ s ≠ t ∧ ∃ s', step s = .next s' :=
  ⟨waiting_inv _, ⟨rfl, fun _ h => absurd h (Nat.not_lt_zero _), fun _ _ => rfl⟩, by decide, _, rfl⟩

theorem witness_NopChangesNothing : (1 : BitVec 24) ≠ 0 ∧ State.reset.phase ≠ .failed := by decide

/-- At the largest width, the most negative height, and CLR_USED zero and not, at both ends of the depths. -/
theorem witness_CfgStartsASession :
    ∀ bpp ∈ [1, 32], ∀ clr ∈ [0, 300],
      let s : State := { State.reset with arg0 := 4096, arg1 := 0xFFFFF000, arg2 := BitVec.ofNat 32 clr }
      bpp ∈ [1, 4, 8, 16, 24, 32] ∧ 0 < s.arg0.toInt ∧ s.arg1.toInt ≠ 0 ∧ s.arg0.toInt ≤ (s.params.maxWidth : Int) ∧
      s.arg1.toInt.natAbs ≤ s.params.maxHeight ∧ (s.arg0.toNat * bpp + 31) / 32 * 4 ≤ s.params.rowbufBytes ∧
      s.params.Wf := by decide

/-- One operand set for each of the three checks. -/
theorem witness_CfgThatFailsClearsAndReportsTheFirstCheck :
    let g : State := { State.reset with arg0 := 0, arg1 := 1 }
    let c : State := { State.reset with arg0 := 4097, arg1 := 1 }
    2 ∉ [1, 4, 8, 16, 24, 32] ∧ (8 ∈ [1, 4, 8, 16, 24, 32] ∧ (g.arg0.toInt ≤ 0 ∨ g.arg1.toInt = 0)) ∧
    (0 < c.arg0.toInt ∧ c.arg1.toInt ≠ 0 ∧ (c.params.maxWidth : Int) < c.arg0.toInt) := by decide

theorem witness_MaskWrLoadsOneMask :
    ({ tiny 16 with bf := true } : State).phase = .config ∧ ({ tiny 16 with bf := true } : State).bf = true ∧
    Channel.a ≠ .r := by decide

/-- An entry below 256, the last one, and the first that is discarded. -/
theorem witness_PalPushAppendsOneEntry :
    ∀ cnt ∈ [0, 255, 256],
      let s : State := { tiny 8 with palLen := 300, palCnt := BitVec.ofNat 32 cnt }
      s.phase = .config ∧ s.palCnt.toNat < s.palLen.toNat := by decide

theorem witness_LoadingOutOfOrderRaisesSeq :
    ((tiny 8).phase ≠ .failed ∧ (tiny 8).bf = false ∧ (tiny 8).palLen.toNat ≤ (tiny 8).palCnt.toNat) ∧
    State.reset.phase ≠ .failed ∧ State.reset.phase ≠ .config := by decide

/-- From CONFIG, and from DECODE at the last word of a row. -/
theorem witness_RowPushStoresFourBytes :
    (Inv (tiny 24) ∧ (tiny 24).phase = .config ∧ enterDecode (tiny 24) = none ∧
      (tiny 24).rowWptr.toNat < (tiny 24).rowBytes.toNat) ∧
    Inv { full (tiny 24) [] with rowWptr := 0 } ∧ ({ full (tiny 24) [] with rowWptr := 0 } : State).phase = .decode ∧
    0 < (full (tiny 24) []).rowBytes.toNat := by
  refine ⟨⟨(tiny_inv 24 (by decide)).1, rfl, by decide, by decide⟩, ?_, rfl, by decide⟩
  exact inv_of_checks (by decide) ⟨configured_fresh rfl rfl (by decide), by decide⟩

/-- Each clause, with an error of the entry check for the second. -/
theorem witness_RowPushRefusesInOrder :
    State.reset.phase = .idle ∧ (tinyDone 8 (.idx 0)).phase = .done ∧
    (({ tiny 8 with palCnt := 0 } : State).phase = .config ∧ enterDecode { tiny 8 with palCnt := 0 } = some .ioPalette) ∧
    ((full (tiny 8) []).phase = .decode ∧ (full (tiny 8) []).rowBytes.toNat ≤ (full (tiny 8) []).rowWptr.toNat) := by decide

theorem witness_DefaultMasksPassTheEntryCheck :
    Inv (tiny 16) ∧ (tiny 16).phase = .config ∧ (tiny 16).bf = false := ⟨(tiny_inv 16 (by decide)).1, rfl, rfl⟩

/-- The highest bit alone, and all bits. -/
theorem witness_AnalyzeFindsTheLowestRun :
    (0x80000000 : Word) ≠ 0 ∧ (0xFFFFFFFF : Word) ≠ 0 ∧ maskShift 0x80000000 = 31 ∧ maskWidth 0xFFFFFFFF = 32 ∧
    maskShift 0x0F0F0000 + maskWidth 0x0F0F0000 ≤ 31 := by decide

theorem witness_ExtractOfAContiguousMaskIsMaskThenShift : contig 0xFFFFFFFF = true ∧ contig 0 = true ∧ maskWidth 0 = 0 := by decide

theorem witness_ReplicateRepeatsTheChannelDownward :
    (1 ≤ 1 ∧ 1 ≤ 16 ∧ 1 < 2 ^ 1) ∧ (1 ≤ 16 ∧ 16 ≤ 16 ∧ 0xFFFF < 2 ^ 16) := by decide

/-- At both ends of the width, and where L4 begins and ends. -/
theorem witness_EveryExpand16ObeysTheLaws :
    (1 ≤ 1 ∧ 1 ≤ 16 ∧ 1 < 2 ^ 1 ∧ 2 * 1 ≤ 16) ∧ (1 ≤ 8 ∧ 8 ≤ 16 ∧ 0xAB < 2 ^ 8 ∧ 2 * 8 ≤ 16) ∧
    (1 ≤ 16 ∧ 16 ≤ 16 ∧ 0x1234 < 2 ^ 16) := by decide

theorem witness_MaskAnReportsTheAnalysis :
    State.reset.phase ≠ .failed ∧ ({ State.reset with phase := .failed } : State).phase = .failed := by decide

/-- A mask a 16-bit pixel can have, one with a bit above 15, and one that is broken. -/
theorem witness_Chx16WidensOneChannel :
    State.reset.phase ≠ .failed ∧ (contig 0xF800 = true ∧ (0xF800 : Word).extractLsb' 16 16 = 0) ∧
    (0x00010000 : Word).extractLsb' 16 16 ≠ 0 ∧ contig 0x00000005 = false := by decide

theorem witness_Chx32TakesTheLowByteOfOneChannel :
    State.reset.phase ≠ .failed ∧ contig 0x3FF00000 = true ∧ contig 0x0000000A = false := by decide

theorem witness_RowsArePaddedToFourBytes : 1 ≤ 33 ∧ 1 ∈ [1, 4, 8, 16, 24, 32] := by decide

/-- Both signs of the height, at the first and last row. -/
theorem witness_TargetRowIsItsOwnInverse :
    ((3 : Int) ≠ 0 ∧ 2 < (3 : Int).natAbs) ∧ ((-3 : Int) ≠ 0 ∧ 0 < (-3 : Int).natAbs) := by decide

/-- One pixel at each indexed depth. -/
theorem witness_IndexedDecodersWriteTheRow :
    ∀ n ∈ [1, 4, 8], Inv (full (tiny n) []) ∧ (full (tiny n) []).phase = .decode ∧ (full (tiny n) []).bpp.toNat = n ∧
      (full (tiny n) []).rowWptr = (full (tiny n) []).rowBytes := by
  intro n hn
  have h : n = 1 ∨ n = 4 ∨ n = 8 := by simpa using hn
  exact ⟨tinyFull_inv n (by revert n; decide), rfl, by revert n; decide, rfl⟩

theorem witness_Dec16WritesTheRow :
    Inv (full (tiny 16) []) ∧ (full (tiny 16) []).phase = .decode ∧ (full (tiny 16) []).bpp = 16 ∧
    (full (tiny 16) []).rowWptr = (full (tiny 16) []).rowBytes := ⟨tinyFull_inv 16 (by decide), rfl, by decide, rfl⟩

theorem witness_Dec24WritesTheRow :
    Inv (full (tiny 24) []) ∧ (full (tiny 24) []).phase = .decode ∧ (full (tiny 24) []).bpp = 24 ∧
    (full (tiny 24) []).rowWptr = (full (tiny 24) []).rowBytes := ⟨tinyFull_inv 24 (by decide), rfl, by decide, rfl⟩

theorem witness_Dec32WritesTheRow :
    Inv (full (tiny 32) []) ∧ (full (tiny 32) []).phase = .decode ∧ (full (tiny 32) []).bpp = 32 ∧
    (full (tiny 32) []).rowWptr = (full (tiny 32) []).rowBytes := ⟨tinyFull_inv 32 (by decide), rfl, by decide, rfl⟩

/-- Each clause: IDLE, another depth, an incomplete palette, a short scanline in DECODE, and every depth in CONFIG. -/
theorem witness_DecodersRefuseInOrder :
    State.reset.phase = .idle ∧ ((tiny 16).phase = .config ∧ (tiny 16).bpp.toNat ≠ 24) ∧
    (enterDecode { tiny 24 with palCnt := 0 } = some .ioPalette ∧ ({ tiny 24 with palCnt := 0 } : State).bpp.toNat = 24) ∧
    (({ full (tiny 24) [] with rowWptr := 0 } : State).phase = .decode ∧ (0 : Word) ≠ (full (tiny 24) []).rowBytes) ∧
    ∀ n ∈ depths, Inv (tiny n) ∧ (tiny n).phase = .config ∧ enterDecode (tiny n) = none ∧ (tiny n).bpp.toNat = n := by
  refine ⟨by decide, by decide, by decide, by decide, fun n hn => ⟨(tiny_inv n hn).1, rfl, (tiny_inv n hn).2, ?_⟩⟩
  revert n; decide

/-- 2.8: one pixel of depth 1, the rest of its byte and the padding at other values. -/
theorem witness_PaddingNeverReachesAPixel :
    let s := full (tiny 1) [0x80]
    Instr.dec1 ∈ decoders ∧ (∃ t, exec .dec1 s = .next t) ∧
    ∀ k b, 8 * k + b < s.cfgWidth.toNat * s.bpp.toNat → b < 8 →
      (rowByte k { s with rowbuf := bytesFrom 0 [0xFF, 0xFF] }).getLsbD (7 - b) = (rowByte k s).getLsbD (7 - b) := by
  refine ⟨by decide, ⟨_, rfl⟩, fun k b h _ => ?_⟩
  have h1 : (full (tiny 1) [0x80]).cfgWidth.toNat * (full (tiny 1) [0x80]).bpp.toNat = 1 := by decide
  have hk : k = 0 := by omega
  have hb : b = 0 := by omega
  subst hk hb
  decide

theorem witness_OneRowImageIgnoresTheHeightSign :
    Instr.dec24 ∈ decoders ∧ (full (tiny 24) []).cfgHeight = 1 ∧ (full (tiny 24) []).srcRow = 0 ∧
    ∃ t, exec .dec24 (full (tiny 24) []) = .next t := ⟨by decide, rfl, rfl, _, rfl⟩

/-- A pushed entry; a direct-colour session; an index at PAL_LEN. -/
theorem witness_PalRdReadsThePalette :
    ((tinyDone 8 (.idx 0)).phase = .done ∧ (tinyDone 8 (.idx 0)).indexed = true ∧
      (tinyDone 8 (.idx 0)).arg0.toNat < (tinyDone 8 (.idx 0)).palLen.toNat ∧ (tinyDone 8 (.idx 0)).arg0.toNat < 256) ∧
    ((tinyDone 24 (.c8 0 0 0 0xFF)).phase ≠ .failed ∧ (tinyDone 24 (.c8 0 0 0 0xFF)).indexed = false) ∧
    (tinyDone 8 (.idx 0)).palLen.toNat ≤ ({ tinyDone 8 (.idx 0) with arg0 := 1 } : State).arg0.toNat := by decide

/-- A cell of each kind: within the palette, beyond it, 8-bit, 16-bit, and None. -/
theorem witness_PixRdReadsTheColour :
    (∀ p ∈ [Pixel.idx 0, .idx 1, .c8 1 2 3 4, .c16 1 2 3 4],
      (tinyDone 8 p).phase = .done ∧ (tinyDone 8 p).arg0.toNat < (tinyDone 8 p).cfgWidth.toNat ∧
      (tinyDone 8 p).arg1.toNat < (tinyDone 8 p).rowsTotal.toNat ∧
      imgCell (tinyDone 8 p).arg0.toNat (tinyDone 8 p).arg1.toNat (tinyDone 8 p) = some p) ∧
    (0 < (tinyDone 8 (.idx 0)).palLen.toNat ∧ (tinyDone 8 (.idx 1)).palLen.toNat ≤ 1) ∧
    imgCell 0 0 { tinyDone 8 (.idx 0) with img := [] } = none := by decide

theorem witness_IdxRdReadsTheIndex :
    Inv (tinyDone 8 (.idx 0)) ∧ (tinyDone 8 (.idx 0)).phase = .done ∧ (tinyDone 8 (.idx 0)).indexed = true ∧
    (tinyDone 8 (.idx 0)).arg0.toNat < (tinyDone 8 (.idx 0)).cfgWidth.toNat ∧
    (tinyDone 8 (.idx 0)).arg1.toNat < (tinyDone 8 (.idx 0)).rowsTotal.toNat :=
  ⟨tinyDone_inv, rfl, by decide, by decide, by decide⟩

/-- Before DONE; a direct-colour session; x = W, and y = 2^32 - 1. -/
theorem witness_PixelReadBackRefusesInOrder :
    ((tiny 8).phase ≠ .failed ∧ (tiny 8).phase ≠ .done) ∧ (tinyDone 24 (.c8 0 0 0 0xFF)).indexed = false ∧
    ((tinyDone 8 (.idx 0)).phase = .done ∧ (tinyDone 8 (.idx 0)).cfgWidth.toNat ≤ (1 : Word).toNat ∧
      (tinyDone 8 (.idx 0)).rowsTotal.toNat ≤ (0xFFFFFFFF : Word).toNat ∧ (tinyDone 8 (.idx 0)).indexed = true) := by decide

end Sys2Proof.Tests
end

section
/-! Error entry and the order of inputs (00_scope.md R10, R15): what every command leaves alone, and what a failing one
writes, both read off the inversion lemma `exec_effect`. -/

namespace Sys2Proof.Machine

/-- A command changes neither its operands, nor the parameters, nor what is the host's: the inputs waiting and the value last
returned (10_state.md R25). -/
theorem Effect.keeps_args_params_host {i : Instr} {s t : State} (h : Effect s i t) :
    t.arg0 = s.arg0 ∧ t.arg1 = s.arg1 ∧ t.arg2 = s.arg2 ∧ t.params = s.params ∧ t.pending = s.pending ∧
      t.readData = s.readData := by
  cases h with
  | maskLoaded => simp
  | ignored | nop | errorEntry | reset | cfgFails | cfgPasses | entryStored | entryDiscarded | bytesPushed | result
  | rowDecoded => exact ⟨rfl, rfl, rfl, rfl, rfl, rfl⟩

/-- The phase after a stored row is DONE or DECODE (42_scanline_decoders.md R163). -/
theorem rowStored_phase_ne_failed (pixel : State → Nat → Pixel) (s : State) : (rowStored pixel s).phase ≠ .failed := by
  simp only [rowStored]
  split <;> decide

/-- The one way into FAILED of a command other than CFG is error entry (60_exceptions.md R224). -/
theorem Effect.failing_is_errorEntry {i : Instr} {s t : State} (h : Effect s i t) (hs : s.phase ≠ .failed)
    (ht : t.phase = .failed) (hc : ∀ bpp bf, i ≠ .cfg bpp bf) :
    ∃ e, e ≠ .noError ∧ t = { s with err := e, phase := .failed } := by
  cases h with
  | errorEntry _ e _ he _ => exact ⟨e, he, rfl⟩
  | cfgFails bpp bf | cfgPasses bpp bf => exact absurd rfl (hc bpp bf)
  | ignored | nop | entryDiscarded => exact absurd ht hs
  | maskLoaded | entryStored | result => exact absurd (by simpa using ht) hs
  | reset | bytesPushed => cases ht
  | rowDecoded _ _ pixel => exact absurd ht (rowStored_phase_ne_failed pixel s)

/-- Settles O26, by the inversion of exec: of its effects only error entry leads a live session into FAILED. -/
theorem failingCommandChangesOnlyErrAndPhase : Obligations.FailingCommandChangesOnlyErrAndPhase := by
  intro i s t h hs ht hc
  obtain ⟨e, he, rfl⟩ := (exec_effect h).failing_is_errorEntry hs ht hc
  exact ⟨rfl, he⟩

/-- With no input waiting a step is idle (60_exceptions.md R241). -/
theorem step_idle {s : State} (hp : s.pending = []) : step s = .next s := by
  simp only [step, hp]

/-- Every step drops the head of the input list and keeps the parameters (20_memory.md R74). -/
theorem step_keeps_tail_params {s t : State} (h : step s = .next t) :
    t.pending = s.pending.tail ∧ t.params = s.params := by
  rcases step_effect h with ⟨hp, rfl⟩ | ⟨a, rest, hp, h⟩
  · simp [hp]
  rw [hp, List.tail_cons]
  rcases h with ⟨-, rfl⟩ | ⟨_, -, -, -, rfl⟩ | ⟨_, _, -, -, -, h⟩
  · exact ⟨rfl, rfl⟩
  · exact ⟨rfl, rfl⟩
  rcases h with ⟨-, _, -, he⟩ | ⟨-, _, -, ⟨-, rfl⟩ | ⟨-, rfl⟩⟩ | ⟨-, _, _, _, rfl⟩
  · obtain ⟨-, -, -, hparams, hpending, -⟩ := he.keeps_args_params_host
    exact ⟨hpending, hparams⟩
  all_goals exact ⟨rfl, rfl⟩

/-- Settles O14, by the inversion of step, down to the effect of a CMD write's command. -/
theorem stepTakesInputsInOrder : Obligations.StepTakesInputsInOrder :=
  ⟨fun _ => step_idle, fun _ _ => step_keeps_tail_params⟩

end Sys2Proof.Machine
end

section
/-! What the clauses of the invariant read: the session registers and IMG, which no error entry, result, host access or
push of data writes; and the clauses a cleared session meets. -/

namespace Sys2Proof.Machine

/-- The part of a state that the session clauses of the invariant speak of. -/
def sessionOf (s : State) : State :=
  { s with
    phase := .idle, err := .noError, arg0 := 0, arg1 := 0, arg2 := 0, res0 := 0, res1 := 0, res2 := 0
    palette := [], rowbuf := [], pending := [], readData := none }

theorem cleared_sessionOf (s : State) : Cleared (sessionOf s) ↔ Cleared s :=
  ⟨fun h => { h with }, fun h => { h with }⟩

theorem configured_sessionOf (s : State) : Configured (sessionOf s) ↔ Configured s :=
  ⟨fun h => { h with }, fun h => { h with }⟩

theorem enterDecode_sessionOf (s : State) : enterDecode (sessionOf s) = enterDecode s := rfl

section
variable {s t : State}

theorem Cleared.congr (h : Cleared s) (hv : sessionOf t = sessionOf s) : Cleared t := by
  rwa [← cleared_sessionOf, hv, cleared_sessionOf]

theorem Configured.congr (h : Configured s) (hv : sessionOf t = sessionOf s) : Configured t := by
  rwa [← configured_sessionOf, hv, configured_sessionOf]

/-- A state in the same phase with the same session meets the same session clauses. -/
theorem PhaseInv.congr (h : PhaseInv s) (hv : sessionOf t = sessionOf s) (hp : t.phase = s.phase) : PhaseInv t := by
  have hw : t.rowWptr = s.rowWptr := (congrArg State.rowWptr hv :)
  have hr : t.srcRow = s.srcRow := (congrArg State.srcRow hv :)
  have hn : t.rowsTotal = s.rowsTotal := (congrArg State.rowsTotal hv :)
  have he : enterDecode t = enterDecode s := by rw [← enterDecode_sessionOf, hv, enterDecode_sessionOf]
  have hcl : Cleared t ↔ Cleared s := by rw [← cleared_sessionOf, hv, cleared_sessionOf]
  have hco : Configured t ↔ Configured s := by rw [← configured_sessionOf, hv, configured_sessionOf]
  simpa only [PhaseInv, hp, hw, hr, hn, he, hcl, hco] using h

/-- The invariant reads no operand, no result and nothing of the host's. -/
theorem Inv.congr (h : Inv s) (hv : sessionOf t = sessionOf s) (hp : t.phase = s.phase) (he : t.err = s.err)
    (hpal : t.palette = s.palette) (hrow : t.rowbuf = s.rowbuf) : Inv t := by
  have hpar : t.params = s.params := (congrArg State.params hv :)
  have himg : t.img = s.img := (congrArg State.img hv :)
  exact
    { params := hpar ▸ h.params
      memory := by simpa only [State.memWf, hpal, hrow, himg] using h.memory
      paletteBound := hpal ▸ h.paletteBound
      rowbufBound := by rw [hrow, hpar]; exact h.rowbufBound
      failedHasError := by rw [hp, he]; exact h.failedHasError
      session := h.session.congr hv hp }

/-- In every phase the session registers are clear or those of a configured session (60_exceptions.md R224). -/
theorem PhaseInv.cleared_or_configured (h : PhaseInv s) : Cleared s ∨ Configured s := by
  unfold PhaseInv at h
  split at h
  · exact .inl h
  · exact .inr h.1
  · exact .inr h.1
  · exact .inr h.1
  · exact h

/-- Error entry leaves the session as it was (60_exceptions.md R224). -/
theorem PhaseInv.errorEntry (h : PhaseInv s) (e : ErrCode) : PhaseInv { s with err := e, phase := .failed } :=
  h.cleared_or_configured.imp (fun hc => hc.congr rfl) (fun hc => hc.congr rfl)

end

/-- What a session that is being loaded has (10_state.md R24). -/
theorem PhaseInv.config {s : State} (h : PhaseInv s) (hp : s.phase = .config) :
    Configured s ∧ s.rowWptr = 0 ∧ s.srcRow = 0 := by
  simpa only [PhaseInv, hp] using h

/-- A configured session of which nothing is pushed or decoded yet may be in CONFIG. -/
theorem PhaseInv.of_config {s : State} (hp : s.phase = .config) (hc : Configured s) (hw : s.rowWptr = 0) (hr : s.srcRow = 0) :
    PhaseInv s := by
  simpa only [PhaseInv, hp] using ⟨hc, hw, hr⟩

/-- What a session that is being decoded has. -/
theorem PhaseInv.decode {s : State} (h : PhaseInv s) (hp : s.phase = .decode) :
    Configured s ∧ enterDecode s = none ∧ s.srcRow.toNat < s.rowsTotal.toNat := by
  simpa only [PhaseInv, hp] using h

theorem maskOf_clearSession (c : Channel) (s : State) : maskOf c (clearSession s) = 0 := by
  cases c <;> rfl

/-- clearSession clears the session (40_session.md R103). -/
theorem cleared_clearSession (s : State) : Cleared (clearSession s) :=
  { maskValid := rfl, indexed := rfl, bpp := rfl, bf := rfl, cfgWidth := rfl, cfgHeight := rfl, clrUsed := rfl
    palLen := rfl, palCnt := rfl, rowBytes := rfl, rowWptr := rfl, srcRow := rfl, rowsTotal := rfl
    masks := fun c => maskOf_clearSession c s, img := rfl }

/-- The reset state holds no session (10_state.md R44). -/
theorem cleared_resetWith (p : Params) : Cleared (State.resetWith p) :=
  (cleared_clearSession (State.resetWith p)).congr rfl

/-- Settles O16: no memory lists anything at reset, and the session registers are clear. -/
theorem resetMeetsTheInvariant : Obligations.ResetMeetsTheInvariant := fun p hp =>
  { params := hp
    memory := by rfl
    paletteBound := fun _ he => nomatch he
    rowbufBound := fun _ he => nomatch he
    failedHasError := by simp [State.resetWith]
    session := cleared_resetWith p }

end Sys2Proof.Machine
end

section
/-! The clauses of the invariant that speak of no session, kept by every command: the canonical form of the memories, the bounds
of PAL and ROWBUF, and ERR nonzero exactly in FAILED. -/

namespace Sys2Proof.Machine

theorem State.memWf_iff (s : State) : s.memWf = true ↔
    Memory.wf unwrittenRgb s.palette = true ∧ Memory.wf unwrittenByte s.rowbuf = true ∧ Memory.Rising s.img := by
  simp only [State.memWf, Bool.and_eq_true, decide_eq_true_eq, and_assoc]

theorem phase_ne_failed_of_entered {s : State} (hp : s.phase = .decode ∨ s.phase = .config ∧ enterDecode s = none) :
    s.phase ≠ .failed := by
  rcases hp with hp | ⟨hp, -⟩ <;> simp [hp]

section
variable {i : Instr} {s t : State}

/-- Every command keeps the memories canonical (log 18). -/
theorem Effect.keeps_memWf (he : Effect s i t) (h : s.memWf = true) : t.memWf = true := by
  rw [State.memWf_iff] at h ⊢
  obtain ⟨hpal, hrow, himg⟩ := h
  cases he with
  | reset | cfgFails | cfgPasses => exact ⟨hpal, hrow, .nil⟩
  | maskLoaded => simpa using ⟨hpal, hrow, himg⟩
  | entryStored => exact ⟨Memory.put_wf hpal, hrow, himg⟩
  | bytesPushed => exact ⟨hpal, pushBytes_wf hrow, himg⟩
  | rowDecoded _ _ pixel => exact ⟨hpal, hrow, writeRow_rising (pixel s) himg⟩
  | ignored | nop | errorEntry | entryDiscarded | result => exact ⟨hpal, hrow, himg⟩

/-- Every command keeps PAL within its 256 entries (10_state.md R40). -/
theorem Effect.keeps_paletteBound (he : Effect s i t) (h : ∀ e ∈ s.palette, e.1 < Config.palDepth) :
    ∀ e ∈ t.palette, e.1 < Config.palDepth := by
  cases he with
  | maskLoaded => simpa using h
  | entryStored _ _ hd =>
    intro e hmem
    rcases Memory.mem_put hmem with hk | hold
    · exact hk ▸ hd
    · exact h e hold
  | ignored | nop | errorEntry | reset | cfgFails | cfgPasses | entryDiscarded | bytesPushed | result | rowDecoded => exact h

/-- Every command keeps ROWBUF within its capacity (10_state.md R41). -/
theorem Effect.keeps_rowbufBound (he : Effect s i t) (h : ∀ e ∈ s.rowbuf, e.1 < s.params.rowbufBytes) :
    ∀ e ∈ t.rowbuf, e.1 < t.params.rowbufBytes := by
  cases he with
  | maskLoaded => simpa using h
  | bytesPushed _ _ hb =>
    intro e hmem
    rcases mem_pushBytes hmem with hold | ⟨-, hle⟩
    · exact h e hold
    · exact hle.trans_lt hb
  | ignored | nop | errorEntry | reset | cfgFails | cfgPasses | entryStored | entryDiscarded | result | rowDecoded => exact h

/-- Every command keeps ERR nonzero exactly in FAILED (60_exceptions.md R221). -/
theorem Effect.keeps_failedHasError (he : Effect s i t) (h : s.phase = .failed ↔ s.err ≠ .noError) :
    t.phase = .failed ↔ t.err ≠ .noError := by
  have noError_of_entered (hp : s.phase = .decode ∨ s.phase = .config ∧ enterDecode s = none) : ¬ s.err ≠ .noError :=
    mt h.mpr (phase_ne_failed_of_entered hp)
  cases he with
  | errorEntry _ e _ he | cfgFails _ _ e he => exact iff_of_true rfl he
  | reset | cfgPasses => exact iff_of_false nofun (absurd rfl)
  | maskLoaded => simpa using h
  | bytesPushed hp => exact iff_of_false nofun (noError_of_entered hp)
  | rowDecoded _ _ pixel _ hp => exact iff_of_false (rowStored_phase_ne_failed pixel s) (noError_of_entered hp)
  | ignored | nop | entryStored | entryDiscarded | result => exact h

end

end Sys2Proof.Machine
end

section
/-! The registers of a configured session, under each command that writes them: CFG, MASK_WR, PAL_PUSH and ROW_PUSH
(40_session.md R102 to R107). -/

namespace Sys2Proof.Machine

/-- Before the first source row nothing of the image is decoded. -/
theorem not_rowDecoded_of_srcRow_zero {s : State} (h : s.srcRow = 0) (y : Nat) : ¬ rowDecoded s y := by
  have h0 : s.srcRow.toNat = 0 := by rw [h]; rfl
  unfold rowDecoded
  rw [h0]
  split <;> omega

theorem rowBytesOf_mod_four (w b : Nat) : rowBytesOf w b % 4 = 0 := Nat.mul_mod_left _ _

theorem supportedDepth_iff (bpp : Nat) :
    supportedDepth bpp = true ↔ bpp = 1 ∨ bpp = 4 ∨ bpp = 8 ∨ bpp = 16 ∨ bpp = 24 ∨ bpp = 32 := by
  simp only [supportedDepth, Bool.or_eq_true, beq_iff_eq, or_assoc]

/-- A positive signed register reads the same unsigned. -/
theorem toNat_toInt_of_pos {w : Word} (h : 0 < w.toInt) : w.toInt.toNat = w.toNat := by
  rw [BitVec.toInt_eq_toNat_cond] at h ⊢
  split at h <;> omega

/-- A mask read back through the channel it was loaded for. -/
theorem maskOf_loadSession (c : Channel) (bpp : Nat) (bf : Bool) (s : State) :
    maskOf c (loadSession bpp bf s) = if bf then 0 else defaultMask bpp c := by
  cases c <;> rfl

/-- A CFG that passes its checks configures the session (40_session.md R102). -/
theorem configured_loadSession {bpp : Nat} (bf : Bool) {s : State} (hp : s.params.Wf) (h : CfgOk bpp s) :
    Configured (loadSession bpp bf (clearSession s)) := by
  obtain ⟨-, -, ⟨-, hmaxH⟩, -, -, hmaxB⟩ := hp
  obtain ⟨hdepth, ⟨hw, hwMax⟩, ⟨hh, hhMax⟩, hrow⟩ := h
  have hbpp : (BitVec.ofNat 8 bpp).toNat = bpp := by
    rw [supportedDepth_iff] at hdepth
    rw [BitVec.toNat_ofNat]
    omega
  have hrowBytes : (BitVec.ofNat 32 (rowBytesOf s.arg0.toInt.toNat bpp)).toNat = rowBytesOf s.arg0.toInt.toNat bpp := by
    rw [BitVec.toNat_ofNat]
    omega
  have hrows : (BitVec.ofNat 32 s.arg1.toInt.natAbs).toNat = s.arg1.toInt.natAbs := by
    rw [BitVec.toNat_ofNat]
    omega
  constructor
  case depth => exact hbpp.symm ▸ hdepth
  case indexed => exact congrArg indexedDepth hbpp.symm
  case width => exact ⟨hw, hwMax⟩
  case height => exact ⟨hh, hhMax⟩
  case palLen => exact congrArg (palLenOf · s.arg2) hbpp.symm
  case palCnt => exact Nat.zero_le _
  case rowBytes =>
    exact hrowBytes.trans (congrArg₂ rowBytesOf (toNat_toInt_of_pos hw) hbpp.symm)
  case rowFits => exact hrowBytes.trans_le hrow
  case rowWptr => exact ⟨rfl, Nat.zero_le _⟩
  case srcRow => exact Nat.zero_le _
  case rowsTotal => exact hrows
  case masksDefault =>
    rintro rfl
    exact ⟨rfl, fun c => (maskOf_loadSession c bpp false _).trans (congrArg (defaultMask · c) hbpp.symm)⟩
  case masksAwaited =>
    rintro rfl c -
    exact maskOf_loadSession c bpp true _
  case imgWritten => exact fun x y _ hy => absurd hy (not_rowDecoded_of_srcRow_zero rfl y)
  case imgOnly => exact fun k p hf => nomatch hf

/-- MASK_WR sets the valid bit of its channel and leaves the others (40_session.md R104). -/
theorem getLsbD_markMaskValid (c d : Channel) (v : BitVec 4) :
    (markMaskValid c v).getLsbD (channelIndex d) = (v.getLsbD (channelIndex d) || decide (d = c)) := by
  cases c <;> cases d <;> simp [markMaskValid, channelIndex]

namespace Configured

variable {s : State}

/-- MASK_WR with BF = 1: a channel still not valid is another one, and its mask is still 0. -/
theorem maskLoaded (h : Configured s) (ch : Channel) (hb : s.bf = true) :
    Configured { setMask ch s.arg0 s with maskValid := markMaskValid ch s.maskValid } := by
  have hmasks : ∀ c, (markMaskValid ch s.maskValid).getLsbD (channelIndex c) = false →
      maskOf c (setMask ch s.arg0 s) = 0 := by
    intro c hc
    rw [getLsbD_markMaskValid, Bool.or_eq_false_iff, decide_eq_false_iff_not] at hc
    rw [maskOf_setMask_other ch c _ s hc.2]
    exact h.masksAwaited hb c hc.1
  cases ch <;>
    exact { h with masksDefault := fun hf => absurd (hb.symm.trans hf) nofun, masksAwaited := fun _ => hmasks }

/-- PAL_PUSH counts at most PAL_LEN entries (40_session.md R106). -/
theorem entryCounted (h : Configured s) (hc : s.palCnt.toNat < s.palLen.toNat) :
    Configured { s with palCnt := s.palCnt + 1 } :=
  { h with palCnt := by show (s.palCnt + 1).toNat ≤ s.palLen.toNat; bv_omega }

/-- ROW_WPTR and ROW_BYTES are multiples of 4, so a push that starts inside the row ends inside it (40_session.md R107). -/
theorem bytesPushed (h : Configured s) (hw : s.rowWptr.toNat < s.rowBytes.toNat) :
    Configured { pushBytes s with phase := .decode, rowWptr := s.rowWptr + 4 } := by
  obtain ⟨hmod, -⟩ := h.rowWptr
  have hrow : s.rowBytes.toNat % 4 = 0 := h.rowBytes ▸ rowBytesOf_mod_four _ _
  have hadd : (s.rowWptr + 4).toNat = s.rowWptr.toNat + 4 := by
    have hlt := s.rowBytes.isLt
    rw [BitVec.toNat_add]
    show (s.rowWptr.toNat + 4) % 2 ^ 32 = _
    omega
  exact { h with rowWptr := by show (s.rowWptr + 4).toNat % 4 = 0 ∧ (s.rowWptr + 4).toNat ≤ s.rowBytes.toNat; omega }

theorem cfgWidth_pos (h : Configured s) : 1 ≤ s.cfgWidth.toNat := by
  have := h.width.1
  rw [← toNat_toInt_of_pos this]
  omega

/-- A configured session has at least one row. -/
theorem rowsTotal_pos (h : Configured s) : 0 < s.rowsTotal.toNat := by
  have := h.height.1
  rw [h.rowsTotal]
  omega

/-- A configured session has at least one byte in a row, so that ROW_WPTR = 0 is no full scanline. -/
theorem rowBytes_ne_zero (h : Configured s) : s.rowBytes ≠ 0 := by
  intro h0
  have hb : 1 ≤ s.bpp.toNat := by
    have := (supportedDepth_iff _).mp h.depth
    omega
  have hpos : 1 * 1 ≤ s.cfgWidth.toNat * s.bpp.toNat := Nat.mul_le_mul h.cfgWidth_pos hb
  have hrow := h.rowBytes
  rw [h0, rowBytesOf] at hrow
  have : (0 : Word).toNat = 0 := rfl
  omega

end Configured

end Sys2Proof.Machine
end

section
/-! The registers and the image of a configured session when a decoder stores a scanline (42_scanline_decoders.md R163). -/

namespace Sys2Proof.Machine

/-- The image row that SRC_ROW goes to (42_scanline_decoders.md R162). -/
def targetRow (s : State) : Nat := (targetY s.cfgHeight.toInt s.srcRow.toNat).toNat

/-- An index of `b` bits is below 2^b (R165). -/
theorem rowIndex_lt (b x : Nat) (s : State) : (rowIndex b x s).toNat < 2 ^ b := by
  unfold rowIndex
  rw [BitVec.toNat_ofNat]
  refine (Nat.mod_le _ _).trans_lt ?_
  exact Nat.and_lt_two_pow _ (Nat.sub_lt (Nat.two_pow_pos b) Nat.one_pos)

/-- Every decoder makes pixels of the kind its depth stores (00_scope.md R12). -/
theorem pixelFits_of_decoderTable {i : Instr} {n : Nat} {pixel : State → Nat → Pixel} (h : (i, n, pixel) ∈ decoderTable)
    (s : State) (x : Nat) : pixelFits n (pixel s x) := by
  have fits : ∀ d ∈ decoderTable, pixelFits d.2.1 (d.2.2 s x) := by
    simp only [decoderTable, List.forall_mem_cons]
    exact ⟨⟨rfl, rowIndex_lt 1 x s⟩, ⟨rfl, rowIndex_lt 4 x s⟩, ⟨rfl, rowIndex_lt 8 x s⟩, ⟨rfl, rfl⟩, .inr ⟨rfl, rfl⟩,
      .inl rfl, fun _ hd => nomatch hd⟩
  exact fits _ h

theorem srcRow_rowStored_toNat {s : State} (pixel : State → Nat → Pixel) (h : s.srcRow.toNat < s.rowsTotal.toNat) :
    (rowStored pixel s).srcRow.toNat = s.srcRow.toNat + 1 := by
  show (s.srcRow + 1).toNat = _
  bv_omega

/-- The rows decoded after a scanline is stored: those before it, and the one it went to. -/
theorem rowDecoded_rowStored {s : State} (pixel : State → Nat → Pixel) (h : s.srcRow.toNat < s.rowsTotal.toNat)
    (y : Nat) : rowDecoded (rowStored pixel s) y ↔ rowDecoded s y ∨ y = targetRow s := by
  have hsrc := srcRow_rowStored_toNat pixel h
  have hheight : (rowStored pixel s).cfgHeight = s.cfgHeight := rfl
  unfold rowDecoded targetRow targetY
  rw [hsrc, hheight]
  split <;> omega

namespace Configured

variable {s : State} {pixel : State → Nat → Pixel}

/-- A stored scanline fills its row with pixels of the session's kind and leaves the other rows. -/
theorem rowStored {i : Instr} (h : Configured s) (hi : (i, s.bpp.toNat, pixel) ∈ decoderTable)
    (hrow : s.srcRow.toNat < s.rowsTotal.toNat) : Configured (rowStored pixel s) := by
  have hsrc := srcRow_rowStored_toNat pixel hrow
  have hdec := rowDecoded_rowStored pixel hrow
  have hwidth : s.cfgWidth.toNat < 2 ^ 32 := s.cfgWidth.isLt
  refine { h with rowWptr := ⟨rfl, Nat.zero_le _⟩, srcRow := hsrc.trans_le hrow, imgWritten := ?_, imgOnly := ?_ }
  · intro x y (hx : x < s.cfgWidth.toNat) hy
    by_cases hyt : y = targetRow s
    · exact ⟨pixel s x, hyt ▸ find_writeRow_same (pixel s) hx hwidth.le s.img, pixelFits_of_decoderTable hi s x⟩
    · obtain ⟨p, hp, hfits⟩ := h.imgWritten x y hx (((hdec y).mp hy).resolve_right hyt)
      refine ⟨p, (find_writeRow_other (pixel s) s.img fun x' hx' hk => hyt ?_).trans hp, hfits⟩
      exact (imgKey_inj (by omega) (by omega) hk).2
  · intro k p hf
    by_cases hk : ∃ x, x < s.cfgWidth.toNat ∧ k = imgKey x (targetRow s)
    · obtain ⟨x, hx, rfl⟩ := hk
      exact ⟨x, targetRow s, rfl, hx, (hdec _).mpr (.inr rfl)⟩
    · have hother := find_writeRow_other (k := k) (y := targetRow s) (w := s.cfgWidth.toNat) (pixel s) s.img
        fun x hx hkx => hk ⟨x, hx, hkx⟩
      obtain ⟨x, y, hxy, hx, hy⟩ := h.imgOnly k p (hother.symm.trans hf)
      exact ⟨x, y, hxy, hx, (hdec y).mpr (.inl hy)⟩

end Configured

end Sys2Proof.Machine
end
section
/-! Every step keeps the invariant: the session clauses command by command, then the inputs of the bus. -/

namespace Sys2Proof.Machine

section
variable {i : Instr} {s t : State}

/-- A full scanline is stored in DECODE only: in CONFIG, ROW_WPTR is still 0 (42_scanline_decoders.md R163). -/
theorem PhaseInv.decode_of_full_row (h : PhaseInv s) (hp : s.phase = .decode ∨ s.phase = .config ∧ enterDecode s = none)
    (hw : s.rowWptr = s.rowBytes) : s.phase = .decode := by
  rcases hp with hp | ⟨hp, -⟩
  · exact hp
  · obtain ⟨hconf, hzero, -⟩ := h.config hp
    exact absurd (hw.symm.trans hzero) hconf.rowBytes_ne_zero

/-- ROW_PUSH and the decoders run in a session that passed the entry check and has rows left (40_session.md R110). -/
theorem PhaseInv.entered (h : PhaseInv s) (hp : s.phase = .decode ∨ s.phase = .config ∧ enterDecode s = none) :
    Configured s ∧ enterDecode s = none ∧ s.srcRow.toNat < s.rowsTotal.toNat := by
  rcases hp with hp | ⟨hp, he⟩
  · exact h.decode hp
  · obtain ⟨hconf, -, hsrc⟩ := h.config hp
    exact ⟨hconf, he, hsrc ▸ hconf.rowsTotal_pos⟩

/-- After a stored scanline the session is in DECODE with rows left, or DONE with none. -/
theorem PhaseInv.rowStored {pixel : State → Nat → Pixel} (hc : Configured (rowStored pixel s)) (he : enterDecode s = none)
    (hrow : s.srcRow.toNat < s.rowsTotal.toNat) : PhaseInv (rowStored pixel s) := by
  have hsrc := srcRow_rowStored_toNat pixel hrow
  by_cases hlast : s.srcRow + 1 = s.rowsTotal
  · have hp : (Machine.rowStored pixel s).phase = .done := if_pos hlast
    simp only [PhaseInv, hp]
    exact ⟨hc, he, hlast, rfl⟩
  · have hp : (Machine.rowStored pixel s).phase = .decode := if_neg hlast
    simp only [PhaseInv, hp]
    refine ⟨hc, he, lt_of_le_of_ne hc.srcRow fun heq => hlast (BitVec.eq_of_toNat_eq heq)⟩

/-- Every command keeps what the phase says of the session. -/
theorem Effect.keeps_phaseInv (he : Effect s i t) (hpar : s.params.Wf) (h : PhaseInv s) : PhaseInv t := by
  cases he with
  | ignored | nop => exact h
  | errorEntry _ e => exact h.errorEntry e
  | reset => exact cleared_clearSession s
  | cfgFails => exact .inl ((cleared_clearSession s).congr rfl)
  | cfgPasses bpp bf hok => exact ⟨configured_loadSession bf hpar hok, rfl, rfl⟩
  | maskLoaded ch hp hb =>
    obtain ⟨hconf, hw, hr⟩ := h.config hp
    exact .of_config ((setMask_phase ..).trans hp) (hconf.maskLoaded ch hb) ((setMask_rowWptr ..).trans hw)
      ((setMask_srcRow ..).trans hr)
  | entryStored hp hc | entryDiscarded hp hc =>
    obtain ⟨hconf, hw, hr⟩ := h.config hp
    exact .of_config hp ((hconf.entryCounted hc).congr rfl) hw hr
  | bytesPushed hp hw =>
    obtain ⟨hconf, hentry, hrow⟩ := h.entered hp
    exact ⟨hconf.bytesPushed hw, hentry, hrow⟩
  | result => exact h.congr rfl rfl
  | rowDecoded _ n pixel hi hp hn =>
    obtain ⟨hconf, hentry, hrow⟩ := h.entered hp
    exact .rowStored (hconf.rowStored (hn.symm ▸ hi) hrow) hentry hrow

/-- Every command keeps the invariant, from every state that has it. -/
theorem Effect.keeps_inv (he : Effect s i t) (h : Inv s) : Inv t := by
  obtain ⟨-, -, -, hparams, -⟩ := he.keeps_args_params_host
  exact
    { params := hparams ▸ h.params
      memory := he.keeps_memWf h.memory
      paletteBound := he.keeps_paletteBound h.paletteBound
      rowbufBound := he.keeps_rowbufBound h.rowbufBound
      failedHasError := he.keeps_failedHasError h.failedHasError
      session := he.keeps_phaseInv h.params h.session }

/-- Error entry keeps the invariant: the session stays as it was (60_exceptions.md R224). -/
theorem Inv.errorEntry (h : Inv s) (e : ErrCode) (hne : e ≠ .noError) : Inv { s with err := e, phase := .failed } :=
  { h with
    failedHasError := iff_of_true rfl hne
    session := h.session.errorEntry e }

/-- A hardware reset meets the invariant: what it keeps is the parameters and what is the host's (log 6). -/
theorem Inv.hardwareReset (h : Inv s) : Inv (hardwareReset s) :=
  (resetMeetsTheInvariant s.params h.params).congr rfl rfl rfl rfl rfl

end

/-- Settles O17, by the inversion of step: a hardware reset gives a reset state, a read and a write elsewhere than to CMD
leave what the invariant reads, and a CMD write has an effect of exec or raises ILLEGAL. -/
theorem everyStepKeepsTheInvariant : Obligations.EveryStepKeepsTheInvariant := by
  intro s t h hstep
  rcases step_effect hstep with ⟨-, rfl⟩ | ⟨a, rest, -, hinput⟩
  · exact h
  have htaken : Inv { s with pending := rest } := h.congr rfl rfl rfl rfl rfl
  rcases hinput with ⟨-, rfl⟩ | ⟨off, -, -, -, rfl⟩ | ⟨off, v, -, -, -, hwrite⟩
  · exact htaken.hardwareReset
  · exact h.congr rfl rfl rfl rfl rfl
  rcases hwrite with ⟨-, i, -, he⟩ | ⟨-, why, -, ⟨-, rfl⟩ | ⟨-, rfl⟩⟩ | ⟨-, a0, a1, a2, rfl⟩
  · exact he.keeps_inv htaken
  · exact htaken
  · exact htaken.errorEntry .illegal nofun
  · exact h.congr rfl rfl rfl rfl rfl

end Sys2Proof.Machine
end

section
/-! Canonical memories are determined by what they read (log 18): rising keys fix the order of a list, and the canonical form fixes
which keys are listed. -/

namespace Sys2Proof.Machine
namespace Memory

variable {α : Type}

theorem find_cons_same (k : Nat) (v : α) (m : Store α) : find k ((k, v) :: m) = some v := if_pos rfl

theorem find_cons_other {j k : Nat} (h : j ≠ k) (v : α) (m : Store α) : find k ((j, v) :: m) = find k m := if_neg h

/-- In a list with rising keys the head's key is listed nowhere else. -/
theorem find_tail_eq_none {k l : Nat} {v : α} {m : Store α} (h : Rising ((k, v) :: m)) (hl : l ≤ k) : find l m = none :=
  find_none_of_lt fun a ha => hl.trans_lt ((List.pairwise_cons.mp h).1 a ha)

/-- The key of the head is no smaller than that of another list with the same content: there it would be unlisted. -/
theorem head_le_of_find_eq {j k : Nat} {u v : α} {m n : Store α} (hn : Rising ((k, v) :: n))
    (h : ∀ l, find l ((j, u) :: m) = find l ((k, v) :: n)) : k ≤ j := by
  by_contra hlt
  have hj := h j
  rw [find_cons_same, find_cons_other (by omega), find_tail_eq_none hn (by omega)] at hj
  exact nomatch hj

/-- Lists with rising keys that list the same are the same. -/
theorem eq_of_find_eq {m n : Store α} (hm : Rising m) (hn : Rising n) (h : ∀ l, find l m = find l n) : m = n := by
  induction m generalizing n with
  | nil =>
    cases n with
    | nil => rfl
    | cons e n =>
      have hk := h e.1
      rw [find_cons_same] at hk
      exact nomatch hk
  | cons e m ih =>
    obtain ⟨j, u⟩ := e
    cases n with
    | nil =>
      have hj := h j
      rw [find_cons_same] at hj
      exact nomatch hj
    | cons e n =>
      obtain ⟨k, v⟩ := e
      obtain rfl : j = k := le_antisymm (head_le_of_find_eq hm fun l => (h l).symm) (head_le_of_find_eq hn h)
      have huv : u = v := by simpa only [find_cons_same, Option.some.injEq] using h j
      have htail : ∀ l, find l m = find l n := by
        intro l
        by_cases hl : j = l
        · rw [find_tail_eq_none hm hl.ge, find_tail_eq_none hn hl.ge]
        · simpa only [find_cons_other hl] using h l
      rw [huv, ih (List.pairwise_cons.mp hm).2 (List.pairwise_cons.mp hn).2 htail]

variable [DecidableEq α]

theorem rising_of_wf {d : α} {m : Store α} (h : wf d m = true) : Rising m := by
  simp only [wf, Bool.and_eq_true, decide_eq_true_eq] at h
  exact h.1

/-- In canonical form a key is listed exactly when it does not read as an unlisted one. -/
theorem find_of_wf {d : α} {m : Store α} (h : wf d m = true) (k : Nat) :
    find k m = if get d k m = d then none else some (get d k m) := by
  simp only [wf, Bool.and_eq_true, List.all_eq_true, decide_eq_true_eq] at h
  cases hf : find k m with
  | none => simp [get, hf]
  | some v =>
    have hv : v ≠ d := h.2 _ (find_some_mem hf)
    simp [get, hf, hv]

end Memory

/-- Settles O20: what canonical row buffers read says what they list, and rising keys say in which order. -/
theorem canonicalRowBuffersThatReadAlikeAreEqual : Obligations.CanonicalRowBuffersThatReadAlikeAreEqual :=
  fun m n hm hn h => Memory.eq_of_find_eq (Memory.rising_of_wf hm) (Memory.rising_of_wf hn) fun k => by
    rw [Memory.find_of_wf hm, Memory.find_of_wf hn, h k]

end Sys2Proof.Machine
end
section
/-! What a command may write: no operand (10_state.md R25), a result only where it succeeds (R26), each memory by its own
commands (R40 to R42), and the phase by the table of R24. -/

namespace Sys2Proof.Machine

/-- Settles O23, by the frame of every effect of exec. -/
theorem noCommandWritesTheArguments : Obligations.NoCommandWritesTheArguments :=
  fun _ _ _ h => (exec_effect h).keeps_args_params_host

theorem mem_decoders_of_decoderTable {i : Instr} {n : Nat} {pixel : State → Nat → Pixel}
    (h : (i, n, pixel) ∈ decoderTable) : i ∈ decoders :=
  List.mem_map_of_mem (f := Prod.fst) h

namespace Effect

variable {i : Instr} {s t : State}

/-- RES0 to RES2 are written by a result command that ends outside FAILED, and by nothing else. -/
theorem keeps_results (h : Effect s i t)
    (hi : i ∉ [Instr.palRd, .pixRd, .idxRd, .maskAn, .chx16, .chx32] ∨ t.phase = .failed) :
    t.res0 = s.res0 ∧ t.res1 = s.res1 ∧ t.res2 = s.res2 := by
  cases h with
  | result _ hp hmem =>
    rcases hi with hi | hi
    · exact absurd hmem hi
    · exact absurd hi hp
  | maskLoaded => simp
  | ignored | nop | errorEntry | reset | cfgFails | cfgPasses | entryStored | entryDiscarded | bytesPushed | rowDecoded =>
    exact ⟨rfl, rfl, rfl⟩

/-- Only PAL_PUSH writes PAL (10_state.md R40). -/
theorem keeps_palette (h : Effect s i t) (hi : i ≠ .palPush) : t.palette = s.palette := by
  cases h with
  | entryStored | entryDiscarded => exact absurd rfl hi
  | maskLoaded => simp
  | ignored | nop | errorEntry | reset | cfgFails | cfgPasses | bytesPushed | result | rowDecoded => rfl

/-- Only ROW_PUSH writes ROWBUF (10_state.md R41). -/
theorem keeps_rowbuf (h : Effect s i t) (hi : i ≠ .rowPush) : t.rowbuf = s.rowbuf := by
  cases h with
  | bytesPushed => exact absurd rfl hi
  | maskLoaded => simp
  | ignored | nop | errorEntry | reset | cfgFails | cfgPasses | entryStored | entryDiscarded | result | rowDecoded => rfl

/-- Only DECn, CFG and RESET write IMG (10_state.md R42). -/
theorem keeps_img (h : Effect s i t) (hdec : i ∉ decoders) (hreset : i ≠ .reset) (hcfg : ∀ bpp bf, i ≠ .cfg bpp bf) :
    t.img = s.img := by
  cases h with
  | reset => exact absurd rfl hreset
  | cfgFails bpp bf | cfgPasses bpp bf => exact absurd rfl (hcfg bpp bf)
  | rowDecoded _ _ _ hi => exact absurd (mem_decoders_of_decoderTable hi) hdec
  | maskLoaded => simp
  | ignored | nop | errorEntry | entryStored | entryDiscarded | bytesPushed | result => rfl

/-- The phase after a command, from a state that meets the session clauses: as it was, or as a row of R24 has it. -/
theorem phase_move (h : Effect s i t) (hinv : PhaseInv s) :
    t.phase = s.phase ∨ PhaseMove s.phase t.phase (.word (.legal i)) := by
  cases h with
  | errorEntry _ e hp => exact .inr (.errorEntry _ _ hp)
  | reset => exact .inr (.toIdle _ _ (.inr rfl))
  | cfgFails bpp bf => exact .inr (.cfgFails _ bpp bf)
  | cfgPasses bpp bf => exact .inr (.cfgPasses _ bpp bf)
  | bytesPushed hp =>
    rcases hp with hp | ⟨hp, -⟩
    · exact .inl hp.symm
    · exact .inr (hp.symm ▸ .decodeEntry _ (.head _))
  | rowDecoded _ n pixel hi hp _ hw =>
    have hdec : s.phase = .decode := hinv.decode_of_full_row hp hw
    by_cases hlast : s.srcRow + 1 = s.rowsTotal
    · have hdone : (rowStored pixel s).phase = .done := if_pos hlast
      rw [hdone, hdec]
      exact .inr (.lastRow i (mem_decoders_of_decoderTable hi))
    · exact .inl ((if_neg hlast).trans hdec.symm)
  | maskLoaded => exact .inl (setMask_phase ..)
  | ignored | nop | entryStored | entryDiscarded | result => exact .inl rfl

end Effect

/-- Settles O24, by the inversion of exec: of its effects only a result writes RES, and it leaves the phase alone. -/
theorem onlyResultCommandsWriteTheResults : Obligations.OnlyResultCommandsWriteTheResults :=
  fun _ _ _ h => (exec_effect h).keeps_results

/-- Settles O25: each memory is the same list after a command that is not its own. -/
theorem eachStoreIsWrittenOnlyByItsCommands : Obligations.EachStoreIsWrittenOnlyByItsCommands := by
  intro i s t h
  have he := exec_effect h
  refine ⟨fun hi k => ?_, fun hi k => ?_, fun hdec hreset hcfg x y => ?_⟩
  · exact congrArg (Memory.get unwrittenRgb k) (he.keeps_palette hi)
  · exact congrArg (Memory.get unwrittenByte k) (he.keeps_rowbuf hi)
  · exact congrArg (Memory.find (imgKey x y)) (he.keeps_img hdec hreset hcfg)

/-- Settles O21, by the inversion of step: a hardware reset leads to IDLE, an illegal word is error entry, and a command moves
the phase as `Effect.phase_move` says. -/
theorem phaseMovesOnlyByTheTable : Obligations.PhaseMovesOnlyByTheTable := by
  intro s t a rest hinv hpend hstep
  rcases step_effect hstep with ⟨hidle, -⟩ | ⟨a', rest', hpend', hinput⟩
  · exact nomatch hpend.symm.trans hidle
  obtain ⟨rfl, rfl⟩ : a = a' ∧ rest = rest' := List.cons.inj (hpend.symm.trans hpend')
  have hcmd (v : Word) : causeOf s.params (.write 4 (s.params.baseAddr + 0x008) v) = some (.word (decode v)) := if_pos rfl
  rcases hinput with ⟨rfl, rfl⟩ | ⟨off, -, -, -, rfl⟩ | ⟨off, v, rfl, -, -, hwrite⟩
  · exact .inr ⟨.hardwareReset, rfl, .toIdle _ _ (.inl rfl)⟩
  · exact .inl rfl
  rcases hwrite with ⟨rfl, i, hi, he⟩ | ⟨rfl, why, hi, ⟨-, rfl⟩ | ⟨hp, rfl⟩⟩ | ⟨-, a0, a1, a2, rfl⟩
  · have hmove := he.phase_move (hinv.session.congr rfl rfl)
    exact hmove.imp_right fun hmove => ⟨_, hcmd v, hi ▸ hmove⟩
  · exact .inl rfl
  · exact .inr ⟨_, hcmd v, .errorEntry _ _ hp⟩
  · exact .inl rfl

end Sys2Proof.Machine
end

section
/-! What the window reads: the register map (10_state.md R20), the fields of STATUS, CFG_MODE and MSW_c, and what a hardware reset
leaves in them (R44). -/

namespace Sys2Proof.Machine

/-- Settles O5: the write is in the contract, CMD performs the word, and the word decodes to a command. -/
theorem cmdWritePerformsTheDecodedCommand : Obligations.CmdWritePerformsTheDecodedCommand := by
  intro s rest w i hpend hdec
  rw [step_write hpend (by decide) (by decide)]
  show performCmd w _ = _
  simp only [performCmd, hdec]

/-! ## The register map -/

/-- The offsets of the map are aligned, below the gap at 0x04C or above it, and end at 0x078 (10_state.md R20). -/
theorem offset_of_regAt {off : Nat} {r : Reg} (h : regAt off = some r) : off ≠ 0x04C ∧ off ≤ 0x078 ∧ off % 4 = 0 := by
  unfold regAt at h
  split at h <;> cases h <;> decide

theorem regAt_reserved {off : Nat} (h : off = 0x04C ∨ 0x078 < off ∨ off % 4 ≠ 0) : regAt off = none := by
  cases hr : regAt off with
  | none => rfl
  | some r =>
    have := offset_of_regAt hr
    omega

theorem memRead_reserved {off : Nat} (h : off = 0x04C ∨ 0x078 < off ∨ off % 4 ≠ 0) (s : State) : memRead off s = 0 := by
  simp only [memRead, regAt_reserved h]

theorem memRead_mask (c : Channel) (s : State) : memRead (0x050 + 4 * channelIndex c) s = maskOf c s := by
  cases c <;> rfl

theorem memRead_msw (c : Channel) (s : State) : memRead (0x060 + 4 * channelIndex c) s = analysisWord (maskOf c s) := by
  cases c <;> rfl

/-- The capacities of R6 fit their registers (10_state.md R39). -/
theorem memRead_capacities (s : State) (h : s.params.Wf) :
    (memRead 0x070 s).toNat = s.params.maxWidth ∧ (memRead 0x074 s).toNat = s.params.maxHeight ∧
      (memRead 0x078 s).toNat = s.params.rowbufBytes := by
  obtain ⟨-, ⟨-, hwidth⟩, ⟨-, hheight⟩, -, -, hrow⟩ := h
  refine ⟨(BitVec.toNat_ofNat ..).trans ?_, (BitVec.toNat_ofNat ..).trans ?_, (BitVec.toNat_ofNat ..).trans ?_⟩ <;> omega

/-- Settles O9: each offset of the map names its register, and the session registers read through `sessionRead`. -/
theorem windowReadsTheRegisterMap : Obligations.WindowReadsTheRegisterMap := by
  intro s
  have session (v : Word) := sessionRead_eq v s
  exact ⟨rfl, rfl, rfl, rfl, rfl, rfl, rfl, rfl, session _, session _, session _, session _, rfl, session _, rfl, rfl,
    session _, rfl, rfl, rfl, rfl, memRead_capacities s, fun _ h => memRead_reserved h s⟩

/-! ## The fields of STATUS, CFG_MODE and MSW_c

A field of a concatenation is found by dropping the fields below it. -/

section
variable (s : State)

theorem statusWord_maskValid : (statusWord s).extractLsb' 4 4 = s.maskValid := by
  simp (disch := decide) only [statusWord, BitVec.extractLsb'_append_eq_of_le, Nat.reduceSub,
    BitVec.extractLsb'_append_eq_right]

theorem statusWord_err : (statusWord s).extractLsb' 8 4 = errCode s.err := by
  simp (disch := decide) only [statusWord, BitVec.extractLsb'_append_eq_of_le, Nat.reduceSub,
    BitVec.extractLsb'_append_eq_right]

theorem statusWord_indexed : (statusWord s).getLsbD 12 = s.indexed := by
  simp only [statusWord, BitVec.getLsbD_append, Nat.reduceSub, Nat.reduceLT, reduceIte, BitVec.getLsbD_ofBool,
    decide_true, Bool.true_and]

theorem statusWord_reserved_low : (statusWord s).getLsbD 3 = false := by
  simp only [statusWord, BitVec.getLsbD_append, Nat.reduceSub, Nat.reduceLT, reduceIte, BitVec.getLsbD_zero]

theorem statusWord_reserved_high : (statusWord s).extractLsb' 13 19 = 0 := by
  simp (disch := decide) only [statusWord, BitVec.extractLsb'_append_eq_of_le, Nat.reduceSub]
  rfl

/-- CFG_MODE in a configured session, and outside one (10_state.md R27). -/
theorem modeWord_eq : modeWord s =
    if s.phase = .idle ∨ s.phase = .failed then 0 else (0#23 ++ BitVec.ofBool s.bf ++ s.bpp : BitVec 32) :=
  sessionRead_eq _ s

theorem modeWord_reserved : (modeWord s).extractLsb' 9 23 = 0 := by
  rw [modeWord_eq]
  split
  · rfl
  · simp (disch := decide) only [BitVec.extractLsb'_append_eq_of_le, Nat.reduceSub]
    rfl

end

/-- Settles O10, field by field of the two words; a session register outside a session reads 0. -/
theorem statusAndModeWordsHoldTheirFields : Obligations.StatusAndModeWordsHoldTheirFields := by
  intro s
  refine ⟨BitVec.extractLsb'_append_eq_right.trans ?phase, statusWord_reserved_low s, statusWord_maskValid s,
    (statusWord_err s).trans ?err, statusWord_indexed s, statusWord_reserved_high s, fun hi hf => ?mode,
    modeWord_reserved s, fun h => (modeWord_eq s).trans (if_pos h)⟩
  case phase => cases s.phase <;> rfl
  case err => cases s.err <;> rfl
  case mode =>
    have hmode : memRead 0x024 s = (0#23 ++ BitVec.ofBool s.bf ++ s.bpp : BitVec 32) := sessionRead_configured _ hi hf
    rw [hmode]
    refine ⟨BitVec.extractLsb'_append_eq_right, ?_⟩
    simp only [BitVec.getLsbD_append, Nat.reduceSub, Nat.reduceLT, reduceIte, BitVec.getLsbD_ofBool, decide_true,
      Bool.true_and]

/-- SHIFT, WIDTH and CONTIG in an analysis word (10_state.md R38). -/
theorem analysisWord_fields (m : Word) :
    (analysisWord m).extractLsb' 0 8 = BitVec.ofNat 8 (maskShift m) ∧
    (analysisWord m).extractLsb' 8 8 = BitVec.ofNat 8 (maskWidth m) ∧
    (analysisWord m).getLsbD 16 = contig m ∧ (analysisWord m).extractLsb' 17 15 = 0 := by
  refine ⟨BitVec.extractLsb'_append_eq_right, ?width, ?contig, ?reserved⟩
  case width =>
    simp (disch := decide) only [analysisWord, BitVec.extractLsb'_append_eq_of_le, Nat.reduceSub,
      BitVec.extractLsb'_append_eq_right]
  case contig =>
    simp only [analysisWord, BitVec.getLsbD_append, Nat.reduceSub, Nat.reduceLT, reduceIte, BitVec.getLsbD_ofBool,
      decide_true, Bool.true_and]
  case reserved =>
    simp (disch := decide) only [analysisWord, BitVec.extractLsb'_append_eq_of_le, Nat.reduceSub]
    rfl

/-- Settles O11: MASK_c reads the mask and MSW_c its analysis word. -/
theorem analysisRegistersFollowTheMasks : Obligations.AnalysisRegistersFollowTheMasks := by
  intro s c
  rw [memRead_msw, memRead_mask]
  exact analysisWord_fields (maskOf c s)

/-! ## After a hardware reset -/

theorem memRead_status_hardwareReset (s : State) : memRead 0x004 (hardwareReset s) = 0 := by
  show (0#19 ++ BitVec.ofBool false ++ errCode .noError ++ 0#4 ++ 0#1 ++ phaseCode .idle : BitVec 32) = 0
  decide

/-- The registers from ARG0 to MASK_A hold 0, and the reserved offsets between them read 0 (10_state.md R44). -/
theorem memRead_hardwareReset (s : State) {off : Nat} (hlo : 0x00C ≤ off) (hhi : off < 0x060) :
    memRead off (hardwareReset s) = 0 := by
  interval_cases off <;> rfl

theorem maskOf_hardwareReset (c : Channel) (s : State) : maskOf c (hardwareReset s) = 0 := by
  cases c <;> rfl

/-- Settles O15: the step is the reset itself, and each MSW_c is the analysis of the mask 0. -/
theorem hardwareResetLeavesTheResetValues : Obligations.HardwareResetLeavesTheResetValues := by
  intro s rest hpend
  refine ⟨hardwareReset { s with pending := rest }, step_cons hpend, rfl,
    memRead_status_hardwareReset _, fun off => memRead_hardwareReset _, ?_, fun x y => rfl⟩
  intro c
  rw [memRead_msw, maskOf_hardwareReset]
  decide

end Sys2Proof.Machine
end

section
/-! A host that keeps the bus contract is never stopped (20_memory.md R64): from a state that meets the invariant every command
answers with a next state, so that no fault of the model is reached. -/

namespace Sys2Proof.Machine

/-- A command or a step goes on: it ends in a next state, not in a fault or a refusal. -/
def Answered (r : Result) : Prop := ∃ t, r = .next t

theorem answered_next (t : State) : Answered (.next t) := ⟨t, rfl⟩

theorem answered_raise (e : ErrCode) (s : State) : Answered (raise e s) := answered_next _

theorem answered_ite {c : Prop} [Decidable c] {a b : Result} (ha : c → Answered a) (hb : ¬ c → Answered b) :
    Answered (if c then a else b) := by
  split
  · next hc => exact ha hc
  · next hc => exact hb hc

/-- A filtered command answers in FAILED (60_exceptions.md R225), so only a live session is left to look at. -/
theorem answered_unlessFailed {s : State} {k : Result} (h : s.phase ≠ .failed → Answered k) : Answered (unlessFailed s k) :=
  answered_ite (fun _ => answered_next s) h

theorem answered_illegalWord (s : State) : Answered (illegalWord s) :=
  answered_unlessFailed fun _ => answered_raise _ s

/-! ## The session commands -/

theorem answered_execCfg (bpp : Nat) (bf : Bool) (s : State) : Answered (execCfg bpp bf s) :=
  answered_ite (fun _ => answered_raise ..) fun _ => answered_ite (fun _ => answered_raise ..) fun _ =>
    answered_ite (fun _ => answered_raise ..) fun _ => answered_next _

theorem answered_execMaskWr (ch : Channel) (s : State) : Answered (execMaskWr ch s) :=
  answered_unlessFailed fun _ => answered_ite (fun _ => answered_raise ..) fun _ =>
    answered_ite (fun _ => answered_raise ..) fun _ => answered_next _

theorem answered_execPalPush (s : State) : Answered (execPalPush s) :=
  answered_unlessFailed fun _ => answered_ite (fun _ => answered_raise ..) fun _ =>
    answered_ite (fun _ => answered_raise ..) fun _ => answered_ite (fun _ => answered_next _) fun _ => answered_next _

/-- A push that starts inside the row ends inside ROWBUF: ROW_WPTR and ROW_BYTES are multiples of 4, and the row fits
(40_session.md R107). -/
theorem Configured.pushInRowbuf {s : State} (h : Configured s) (hw : s.rowWptr.toNat < s.rowBytes.toNat) :
    s.rowWptr.toNat + 3 < s.params.rowbufBytes := by
  obtain ⟨hmod, -⟩ := h.rowWptr
  have hrow : s.rowBytes.toNat % 4 = 0 := h.rowBytes ▸ rowBytesOf_mod_four _ _
  have hfits := h.rowFits
  omega

theorem Configured.answered_pushRow {s : State} (h : Configured s) : Answered (pushRow s) :=
  answered_ite (fun _ => answered_raise ..) fun hw => answered_ite (fun _ => answered_next _) fun hout =>
    absurd (h.pushInRowbuf (Nat.lt_of_not_le hw)) hout

theorem PhaseInv.answered_execRowPush {s : State} (h : PhaseInv s) : Answered (execRowPush s) := by
  refine answered_unlessFailed fun _ => ?_
  split
  · next hp =>
    split
    · exact answered_raise ..
    · exact (h.config hp).1.answered_pushRow
  · next hp => exact (h.decode hp).1.answered_pushRow
  all_goals exact answered_raise ..

/-! ## The decoders -/

/-- The bytes that hold pixel bits are bytes of the scanline (42_scanline_decoders.md R160, R161). -/
theorem dataBytes_le_rowBytesOf (w n : Nat) : dataBytes w n ≤ rowBytesOf w n := by
  unfold dataBytes rowBytesOf
  omega

/-- SRC_ROW goes to a row of the image (42_scanline_decoders.md R162). -/
theorem targetY_mem_image {h : Int} {r : Nat} (hr : r < h.natAbs) : 0 ≤ targetY h r ∧ targetY h r < (h.natAbs : Int) := by
  unfold targetY
  split <;> omega

/-- A scanline of a configured session with rows left lies in the stores (20_memory.md R60). -/
theorem Configured.rowInStores {s : State} (h : Configured s) (hrow : s.srcRow.toNat < s.rowsTotal.toNat) :
    rowInStores s.bpp.toNat s := by
  obtain ⟨hwpos, hwidth⟩ := h.width
  rw [h.rowsTotal] at hrow
  obtain ⟨hlo, hhi⟩ := targetY_mem_image hrow
  have hheight : (s.cfgHeight.toInt.natAbs : Int) ≤ s.params.maxHeight := Int.ofNat_le.mpr h.height.2
  have hdata : dataBytes s.cfgWidth.toNat s.bpp.toNat ≤ s.params.rowbufBytes :=
    calc dataBytes s.cfgWidth.toNat s.bpp.toNat
      _ ≤ rowBytesOf s.cfgWidth.toNat s.bpp.toNat := dataBytes_le_rowBytesOf _ _
      _ = s.rowBytes.toNat := h.rowBytes.symm
      _ ≤ s.params.rowbufBytes := h.rowFits
  refine ⟨?_, hdata, hlo, hhi.trans_le hheight⟩
  rw [← toNat_toInt_of_pos hwpos]
  omega

theorem PhaseInv.answered_decodeRow {s : State} (h : PhaseInv s) (n : Nat) (pixel : State → Nat → Pixel) :
    Answered (decodeRow n pixel s) := by
  have full (hn : s.bpp.toNat = n) (hp : s.phase = .decode ∨ s.phase = .config ∧ enterDecode s = none) :
      Answered (decodeFullRow n pixel s) := by
    obtain ⟨hconf, -, hrow⟩ := h.entered hp
    refine answered_ite (fun _ => answered_raise ..) fun _ => ?_
    exact ⟨_, storeRow_inStores pixel (hn ▸ hconf.rowInStores hrow)⟩
  refine answered_unlessFailed fun _ => answered_ite (fun _ => answered_raise ..) fun hp => ?_
  refine answered_ite (fun _ => answered_raise ..) fun hn => answered_ite (fun hc => ?_) fun hc => ?_
  · split
    · exact answered_raise ..
    · next he => exact full (not_not.mp hn) (.inr ⟨hc, he⟩)
  · exact full (not_not.mp hn) (.inl ((not_not.mp hp).resolve_left hc))

/-! ## Read-back -/

theorem answered_execPalRd (s : State) : Answered (execPalRd s) :=
  answered_unlessFailed fun _ => answered_ite (fun _ => answered_raise ..) fun _ =>
    answered_ite (fun _ => answered_raise ..) fun _ => answered_next _

/-- What a session that is decoded to the end has (10_state.md R24). -/
theorem PhaseInv.done {s : State} (h : PhaseInv s) (hp : s.phase = .done) : Configured s ∧ s.srcRow = s.rowsTotal := by
  simp only [PhaseInv, hp] at h
  exact ⟨h.1, h.2.2.1⟩

/-- With every source row decoded every row of the image is (42_scanline_decoders.md R162). -/
theorem Configured.rowDecoded_of_all {s : State} (h : Configured s) (hall : s.srcRow = s.rowsTotal) {y : Nat}
    (hy : y < s.rowsTotal.toNat) : rowDecoded s y := by
  have hrows := h.rowsTotal
  unfold rowDecoded
  rw [hall]
  split <;> omega

/-- In DONE no cell of the image holds None (43_readback.md R208). -/
theorem PhaseInv.imgCell_of_done {s : State} (h : PhaseInv s) (hp : s.phase = .done) (hin : insideImage s = true) :
    ∃ p, imgCell s.arg0.toNat s.arg1.toNat s = some p ∧ pixelFits s.bpp.toNat p := by
  obtain ⟨hconf, hall⟩ := h.done hp
  obtain ⟨hx, hy⟩ := (insideImage_iff s).mp hin
  exact hconf.imgWritten _ _ hx (hconf.rowDecoded_of_all hall hy)

/-- In an indexed session a pixel is an index (43_readback.md R205). -/
theorem idx_of_pixelFits {bpp : Nat} {p : Pixel} (hd : indexedDepth bpp = true) (h : pixelFits bpp p) : ∃ i, p = .idx i := by
  cases p with
  | idx i => exact ⟨i, rfl⟩
  | c8 r g b a => rcases h with rfl | ⟨rfl, -⟩ <;> cases hd
  | c16 r g b a =>
    obtain ⟨rfl, -⟩ := h
    cases hd

theorem PhaseInv.answered_execPixRd {s : State} (h : PhaseInv s) : Answered (execPixRd s) := by
  refine answered_unlessFailed fun _ => answered_ite (fun _ => answered_raise ..) fun hp => ?_
  refine answered_ite (fun _ => answered_raise ..) fun hin => ?_
  obtain ⟨p, hcell, -⟩ := h.imgCell_of_done (not_not.mp hp) (by simpa using hin)
  rw [hcell]
  cases p with
  | idx i =>
    dsimp only
    split
    · exact answered_next _
    · exact answered_raise ..
  | c8 | c16 => exact answered_next _

theorem PhaseInv.answered_execIdxRd {s : State} (h : PhaseInv s) : Answered (execIdxRd s) := by
  refine answered_unlessFailed fun _ => answered_ite (fun _ => answered_raise ..) fun hp => ?_
  refine answered_ite (fun _ => answered_raise ..) fun hin => ?_
  obtain ⟨hdone, hindexed⟩ : s.phase = .done ∧ s.indexed = true := by simpa only [not_or, not_not] using hp
  obtain ⟨p, hcell, hfits⟩ := h.imgCell_of_done hdone (by simpa using hin)
  obtain ⟨i, rfl⟩ := idx_of_pixelFits ((h.done hdone).1.indexed.symm.trans hindexed) hfits
  rw [hcell]
  exact answered_next _

/-! ## Every command, every input -/

/-- A command in a state that meets the session clauses answers. -/
theorem PhaseInv.answered_exec {s : State} (h : PhaseInv s) (i : Instr) : Answered (exec i s) := by
  cases i with
  | nop | reset => exact answered_next _
  | cfg bpp bf => exact answered_execCfg bpp bf s
  | maskWr ch => exact answered_execMaskWr ch s
  | palPush => exact answered_execPalPush s
  | rowPush => exact h.answered_execRowPush
  | palRd => exact answered_execPalRd s
  | pixRd => exact h.answered_execPixRd
  | idxRd => exact h.answered_execIdxRd
  | maskAn => exact answered_unlessFailed fun _ => answered_next _
  | chx16 | chx32 =>
    exact answered_unlessFailed fun _ => answered_ite (fun _ => answered_raise ..) fun _ => answered_next _
  | dec1 | dec4 | dec8 | dec16 | dec24 | dec32 => exact h.answered_decodeRow _ _

theorem PhaseInv.answered_performCmd {s : State} (h : PhaseInv s) (w : Word) : Answered (performCmd w s) := by
  unfold performCmd
  split
  · exact h.answered_exec _
  · exact answered_illegalWord s

theorem PhaseInv.answered_memWrite {s : State} (h : PhaseInv s) (off : Nat) (v : Word) : Answered (memWrite off v s) := by
  unfold memWrite
  split
  · exact h.answered_performCmd v
  all_goals exact answered_next _

/-- An access in the contract reaches its offset (20_memory.md R61, R65). -/
theorem answered_onBus {width addr : Nat} {s : State} {k : Nat → Result}
    (hc : width = 4 ∧ s.params.baseAddr ≤ addr ∧ addr < s.params.baseAddr + 4096 ∧ (addr - s.params.baseAddr) % 4 = 0)
    (h : ∀ off, Answered (k off)) : Answered (onBus width addr s k) := by
  obtain ⟨hw, hlo, hhi, hm⟩ := hc
  rw [onBus_inContract (Nat.add_sub_cancel' hlo).symm (by omega) hm hw]
  exact h _

theorem PhaseInv.answered_takeInput {s : State} (h : PhaseInv s) {a : Access} (ha : InContract s.params a) :
    Answered (takeInput a s) := by
  cases a with
  | read width addr => exact answered_onBus ha fun off => answered_next _
  | write width addr v => exact answered_onBus ha fun off => h.answered_memWrite off v
  | hardwareReset => exact answered_next _

/-- Progress: a step of a state that meets the invariant, with a host that keeps the contract, answers. -/
theorem Inv.answered_step {s : State} (h : Inv s) (hc : ∀ a ∈ s.pending, InContract s.params a) : Answered (step s) := by
  cases hp : s.pending with
  | nil => exact ⟨s, step_idle hp⟩
  | cons a rest =>
    rw [step_cons hp]
    have htaken : PhaseInv { s with pending := rest } := h.session.congr rfl rfl
    exact htaken.answered_takeInput (hc a (hp ▸ List.mem_cons_self))

/-- The contract is kept for the inputs that still wait after a step (20_memory.md R74). -/
theorem inContract_of_step {s t : State} (hstep : step s = .next t) (hc : ∀ a ∈ s.pending, InContract s.params a) :
    ∀ a ∈ t.pending, InContract t.params a := by
  obtain ⟨htail, hparams⟩ := step_keeps_tail_params hstep
  intro a ha
  rw [htail] at ha
  exact hparams ▸ hc a (List.mem_of_mem_tail ha)

theorem core_run_succ {s t : State} (hstep : step s = .next t) (k : Nat) : core.run (k + 1) s = core.run k t := by
  have hcore : core.step s = .next t := hstep
  simp only [Host.Core.run, hcore]

/-- Settles O18, by induction on the number of steps: each step answers (`Inv.answered_step`), keeps the invariant (O17) and
leaves a list of inputs that keeps the contract. -/
theorem hostKeepingTheContractIsNeverStopped : Obligations.HostKeepingTheContractIsNeverStopped := by
  intro k
  induction k with
  | zero => exact fun s h _ => ⟨s, rfl, h⟩
  | succ k ih =>
    intro s h hc
    obtain ⟨t, hstep⟩ := h.answered_step hc
    rw [core_run_succ hstep]
    exact ih t (everyStepKeepsTheInvariant s t h hstep) (inContract_of_step hstep hc)

end Sys2Proof.Machine
end

section
/-! What an access to the window does (20_memory.md R61 to R65): a read returns the register and touches nothing, a write elsewhere
than to CMD stores an ARG or is ignored, an access outside the contract has no step; and no input disturbs the canonical memories. -/

namespace Sys2Proof.Machine

/-- Settles O19, by the inversion of step: a hardware reset empties the memories, a command keeps them canonical
(`Effect.keeps_memWf`), and nothing else writes them. -/
theorem everyStepKeepsMemoriesCanonical : Obligations.EveryStepKeepsMemoriesCanonical := by
  intro s t h hstep
  rcases step_effect hstep with ⟨-, rfl⟩ | ⟨a, rest, -, hinput⟩
  · exact h
  rcases hinput with ⟨-, rfl⟩ | ⟨off, -, -, -, rfl⟩ | ⟨off, v, -, -, -, hwrite⟩
  · rfl
  · exact h
  rcases hwrite with ⟨-, i, -, he⟩ | ⟨-, why, -, ⟨-, rfl⟩ | ⟨-, rfl⟩⟩ | ⟨-, a0, a1, a2, rfl⟩
  · exact he.keeps_memWf h
  all_goals exact h

/-- No register reads the inputs that wait. -/
theorem readReg_pending (r : Reg) (s : State) (rest : List Access) : readReg r { s with pending := rest } = readReg r s := by
  cases r with
  | mask c | msw c => cases c <;> rfl
  | _ => rfl

theorem memRead_pending (off : Nat) (s : State) (rest : List Access) :
    memRead off { s with pending := rest } = memRead off s := by
  unfold memRead
  split
  · exact readReg_pending _ s rest
  · rfl

/-- Settles O8: the step is the read itself, and the value does not depend on the inputs that wait. -/
theorem memReadReturnsTheRegisterAndChangesNothing : Obligations.MemReadReturnsTheRegisterAndChangesNothing := by
  intro s rest off hpend ho hm
  rw [step_read hpend ho hm, memRead_pending]

/-- Where the registers that take a write stand (10_state.md R20). -/
theorem offset_of_writable {off : Nat} {r : Reg} (h : regAt off = some r) :
    r ∈ [Reg.cmd, .arg0, .arg1, .arg2] → off ∈ [0x008, 0x00C, 0x010, 0x014] := by
  unfold regAt at h
  split at h <;> cases h <;> decide

/-- A write to a read-only register or a reserved offset is ignored (20_memory.md R63). -/
theorem memWrite_ignored {off : Nat} (hoff : off ∉ [0x008, 0x00C, 0x010, 0x014]) (v : Word) (s : State) :
    memWrite off v s = .next s := by
  have hreg (r : Reg) (hr : r ∈ [Reg.cmd, .arg0, .arg1, .arg2]) : regAt off ≠ some r :=
    fun h => hoff (offset_of_writable h hr)
  unfold memWrite
  split
  · next h => exact absurd h (hreg .cmd (by decide))
  · next h => exact absurd h (hreg .arg0 (by decide))
  · next h => exact absurd h (hreg .arg1 (by decide))
  · next h => exact absurd h (hreg .arg2 (by decide))
  · rfl

/-- Settles O12, by the offset: each ARG stores the value, and every other offset but CMD ignores it. -/
theorem writesOtherThanCmdStoreOrAreIgnored : Obligations.WritesOtherThanCmdStoreOrAreIgnored := by
  intro s rest off v hpend ho hm hcmd
  rw [step_write hpend ho hm]
  split_ifs with h0 h1 h2
  · subst h0; rfl
  · subst h1; rfl
  · subst h2; rfl
  · exact memWrite_ignored (by simp [hcmd, h0, h1, h2]) v _

/-- An access to the window that is narrow, wide or misaligned has no step (20_memory.md R65). -/
theorem onBus_outsideContract {width off : Nat} (ho : off < 4096) (hc : width ≠ 4 ∨ off % 4 ≠ 0) (s : State)
    (k : Nat → Result) : onBus width (s.params.baseAddr + off) s k = .fault .outsideContract := by
  have hwindow : ¬ (s.params.baseAddr + off < s.params.baseAddr ∨
      s.params.baseAddr + Config.windowBytes ≤ s.params.baseAddr + off) := by
    unfold Config.windowBytes
    omega
  rw [onBus, if_neg hwindow, Nat.add_sub_cancel_left, if_pos hc]

/-- Settles O13: read or write, the bus faults before the access reaches a register. -/
theorem accessOutsideTheContractHasNoStep : Obligations.AccessOutsideTheContractHasNoStep := by
  intro s rest off width v ho hc
  constructor
  all_goals
    intro hpend
    rw [step_cons hpend, takeInput]
    exact onBus_outsideContract ho hc { s with pending := rest } _

end Sys2Proof.Machine
end

section
/-! The command word (30_encoding.md R80 to R85): its two fields, what each format decodes to, and the round trip between a command
and its word. -/

namespace Sys2Proof

/-! ## The two fields of a word (R80) -/

section
variable (op : BitVec 8) (imm : BitVec 24) (w : Word) (i : Instr)

theorem opField_append : opField (op ++ imm) = op := by
  simp (disch := decide) only [opField, BitVec.extractLsb'_append_eq_left]

theorem immField_append : immField (op ++ imm) = imm := by
  simp (disch := decide) only [immField, BitVec.extractLsb'_append_eq_right]

theorem opField_append_immField : (opField w ++ immField w : Word) = w := by
  exact BitVec.extractLsb'_append_extractLsb'

theorem opField_toNat : (opField w).toNat = w.toNat / 2 ^ 24 := by
  have := w.isLt
  rw [opField, BitVec.extractLsb'_toNat, Nat.shiftRight_eq_div_pow]
  omega

theorem immField_toNat : (immField w).toNat = w.toNat % 2 ^ 24 := by
  simp [immField]

@[simp] theorem opField_encode : opField (encode i) = opcode i := opField_append ..

@[simp] theorem immField_encode : immField (encode i) = immediate i := immField_append ..

end

/-- A word is the encoding of a command when both its fields are. -/
theorem encode_eq_of_fields {i : Instr} {w : Word} (hop : opField w = opcode i) (himm : immField w = immediate i) :
    encode i = w := by
  rw [encode, ← hop, ← himm, opField_append_immField]

/-! ## The formats of the immediate field (R81, R82) -/

section
variable (bpp : Nat) (bf : Bool) (ch : Channel)

theorem immediate_cfg_reserved : (immediate (.cfg bpp bf)).extractLsb' 9 15 = 0 := by
  simp (disch := decide) only [immediate, BitVec.extractLsb'_append_eq_of_le]
  rfl

theorem immediate_cfg_bf : (immediate (.cfg bpp bf)).getLsbD 8 = bf := by
  simp only [immediate, BitVec.getLsbD_append, Nat.lt_irrefl, Nat.sub_self, Nat.reduceLT, reduceIte,
    BitVec.getLsbD_ofBool, decide_true, Bool.true_and]

theorem immediate_cfg_bpp : (immediate (.cfg bpp bf)).extractLsb' 0 8 = BitVec.ofNat 8 bpp := by
  simp (disch := decide) only [immediate, BitVec.extractLsb'_append_eq_right]

theorem decodeCfg_immediate {bpp : Nat} (h : bpp < 2 ^ 8) : decodeCfg (immediate (.cfg bpp bf)) = .legal (.cfg bpp bf) := by
  rw [decodeCfg, if_pos (immediate_cfg_reserved bpp bf), immediate_cfg_bpp, immediate_cfg_bf,
    BitVec.toNat_ofNat, Nat.mod_eq_of_lt h]

theorem channelOf_channelCode : channelOf (channelCode ch) = ch := by
  cases ch <;> rfl

theorem channelCode_channelOf : ∀ code : BitVec 2, channelCode (channelOf code) = code := by decide

theorem decodeMaskWr_immediate : decodeMaskWr (immediate (.maskWr ch)) = .legal (.maskWr ch) := by
  simp (disch := decide) only [decodeMaskWr, immediate, BitVec.extractLsb'_append_eq_left,
    BitVec.extractLsb'_append_eq_right, channelOf_channelCode, BitVec.ofNat_eq_ofNat, reduceIte]

end

section
variable {c : Prop} [Decidable c] {i j : Instr} {why : Illegal} {imm : BitVec 24}

theorem legal_of_reserved_check : (if c then Decoded.legal i else .illegal .reservedField) = .legal j ↔ c ∧ i = j := by
  split <;> simp_all

theorem illegal_of_reserved_check :
    (if c then Decoded.legal i else .illegal .reservedField) = .illegal why ↔ why = .reservedField ∧ ¬ c := by
  split <;> simp_all [eq_comm]

/-- A field that reaches up to bit 23 is 0 when nothing is left above its lowest bit. -/
theorem highField_eq_zero (imm : BitVec 24) {k n : Nat} (h : k + n = 24) :
    imm.extractLsb' k n = 0 ↔ imm.toNat / 2 ^ k = 0 := by
  have hlt : imm.toNat / 2 ^ k < 2 ^ n := by
    rw [Nat.div_lt_iff_lt_mul (by positivity), ← Nat.pow_add, Nat.add_comm, h]
    exact imm.isLt
  rw [← BitVec.toNat_inj, BitVec.extractLsb'_toNat, Nat.shiftRight_eq_div_pow, Nat.mod_eq_of_lt hlt]
  rfl

theorem decodeZ_legal_iff : decodeZ i imm = .legal j ↔ imm = 0 ∧ i = j := legal_of_reserved_check

theorem decodeZ_illegal_iff : decodeZ i imm = .illegal why ↔ why = .reservedField ∧ imm.toNat ≠ 0 := by
  rw [decodeZ, illegal_of_reserved_check, ← BitVec.toNat_inj]
  rfl

theorem decodeCfg_illegal_iff : decodeCfg imm = .illegal why ↔ why = .reservedField ∧ imm.toNat / 2 ^ 9 ≠ 0 := by
  rw [decodeCfg, illegal_of_reserved_check, highField_eq_zero imm rfl]

theorem decodeMaskWr_illegal_iff : decodeMaskWr imm = .illegal why ↔ why = .reservedField ∧ imm.toNat / 2 ^ 2 ≠ 0 := by
  rw [decodeMaskWr, illegal_of_reserved_check, highField_eq_zero imm rfl]

theorem ofBool_getLsbD_eq_extractLsb' (k : Nat) : BitVec.ofBool (imm.getLsbD k) = imm.extractLsb' k 1 := by
  have single : ∀ b : BitVec 1, BitVec.ofBool (b == 1#1) = b := by decide
  rw [BitVec.getLsbD_eq_extractLsb', single]

/-- A legal immediate of format CFGF is the one its command has: reserved bits, BF and BPP put together again. -/
theorem fields_of_decodeCfg_legal (h : decodeCfg imm = .legal j) : WellFormed j ∧ opcode j = 0x02 ∧ immediate j = imm := by
  obtain ⟨hres, rfl⟩ := legal_of_reserved_check.mp h
  refine ⟨BitVec.isLt _, rfl, ?_⟩
  rw [immediate, BitVec.ofNat_toNat, BitVec.setWidth_eq, ofBool_getLsbD_eq_extractLsb', ← BitVec.ofNat_eq_ofNat, ← hres,
    BitVec.extractLsb'_append_extractLsb'_eq_extractLsb' (show 9 = 8 + 1 from rfl)]
  exact BitVec.extractLsb'_append_extractLsb'

/-- A legal immediate of format CHF is the one its command has. -/
theorem fields_of_decodeMaskWr_legal (h : decodeMaskWr imm = .legal j) :
    WellFormed j ∧ opcode j = 0x03 ∧ immediate j = imm := by
  obtain ⟨hres, rfl⟩ := legal_of_reserved_check.mp h
  refine ⟨trivial, rfl, ?_⟩
  rw [immediate, channelCode_channelOf, ← BitVec.ofNat_eq_ofNat, ← hres]
  exact BitVec.extractLsb'_append_extractLsb'

end

/-! ## The opcode table (R83, R84) -/

/-- The commands of format Z (R81). -/
def formatZ : List Instr :=
  [.nop, .reset, .palPush, .rowPush, .palRd, .pixRd, .idxRd, .maskAn, .chx16, .chx32,
    .dec1, .dec4, .dec8, .dec16, .dec24, .dec32]

theorem fields_of_formatZ : ∀ i ∈ formatZ, WellFormed i ∧ immediate i = 0 := by
  simp [formatZ, WellFormed, immediate]

theorem opcode_of_formatZ : ∀ i ∈ formatZ,
    (opcode i).toNat ≤ 0x01 ∨ (0x04 ≤ (opcode i).toNat ∧ (opcode i).toNat ≤ 0x0B) ∨
      (0x10 ≤ (opcode i).toNat ∧ (opcode i).toNat ≤ 0x15) := by decide

/-- What a word decodes to: one of the three formats by its opcode, or nothing where the opcode is not assigned. -/
theorem decode_cases (w : Word) :
    (∃ i ∈ formatZ, opField w = opcode i ∧ decode w = decodeZ i (immField w)) ∨
    (opField w = 0x02 ∧ decode w = decodeCfg (immField w)) ∨
    (opField w = 0x03 ∧ decode w = decodeMaskWr (immField w)) ∨
    (((0x0C ≤ (opField w).toNat ∧ (opField w).toNat ≤ 0x0F) ∨ 0x16 ≤ (opField w).toNat) ∧
      decode w = .illegal .unassignedOpcode) := by
  unfold decode
  split
  case h_3 hop => exact .inr (.inl ⟨BitVec.eq_of_toNat_eq hop, rfl⟩)
  case h_4 hop => exact .inr (.inr (.inl ⟨BitVec.eq_of_toNat_eq hop, rfl⟩))
  case h_19 =>
    refine .inr (.inr (.inr ⟨?_, rfl⟩))
    simp only [imp_false] at *
    omega
  all_goals
    next hop =>
    refine .inl ⟨_, ?_, ?_, rfl⟩
    · decide
    · exact BitVec.eq_of_toNat_eq hop

/-! ## The round trip -/

/-- Settles O1, by the format: an operand field of CFG or MASK_WR is read back from the immediate, and a command of format Z is one
fixed word. -/
theorem decodeOfEncodeIsTheInstruction : Obligations.DecodeOfEncodeIsTheInstruction := by
  intro i hwf
  cases i with
  | cfg bpp bf =>
    rw [decode, opField_encode, immField_encode]
    exact decodeCfg_immediate bf hwf
  | maskWr ch =>
    rw [decode, opField_encode, immField_encode]
    exact decodeMaskWr_immediate ch
  | _ => rfl

/-- Settles O2, by the format: opcode and immediate of the command read are the fields of the word. -/
theorem legalWordIsTheEncodingOfItsInstruction : Obligations.LegalWordIsTheEncodingOfItsInstruction := by
  intro w i h
  rcases decode_cases w with ⟨j, hj, hop, hw⟩ | ⟨hop, hw⟩ | ⟨hop, hw⟩ | ⟨-, hw⟩ <;> rw [hw] at h
  · obtain ⟨himm, rfl⟩ := decodeZ_legal_iff.mp h
    obtain ⟨hwf, hzero⟩ := fields_of_formatZ j hj
    exact ⟨hwf, encode_eq_of_fields hop (himm.trans hzero.symm)⟩
  · obtain ⟨hwf, hcode, himm⟩ := fields_of_decodeCfg_legal h
    exact ⟨hwf, encode_eq_of_fields (hop.trans hcode.symm) himm.symm⟩
  · obtain ⟨hwf, hcode, himm⟩ := fields_of_decodeMaskWr_legal h
    exact ⟨hwf, encode_eq_of_fields (hop.trans hcode.symm) himm.symm⟩
  · cases h

/-- Settles O3, by the format: each checks its own reserved field, and the opcodes of no format are the unassigned ones. -/
theorem illegalWordsAreTheUnassignedAndTheReserved : Obligations.IllegalWordsAreTheUnassignedAndTheReserved := by
  intro w
  rw [← opField_toNat, ← immField_toNat]
  rcases decode_cases w with ⟨i, hi, hop, hw⟩ | ⟨hop, hw⟩ | ⟨hop, hw⟩ | ⟨hop, hw⟩ <;> rw [hw]
  · have hcode := opcode_of_formatZ i hi
    rw [← hop] at hcode
    simp only [decodeZ_illegal_iff, reduceCtorEq, false_and, true_and, false_iff]
    omega
  · simp [decodeCfg_illegal_iff, hop]
  · simp [decodeMaskWr_illegal_iff, hop]
  · simp only [Decoded.illegal.injEq, reduceCtorEq, true_iff, false_iff]
    omega

/-- Settles O4, word by word. -/
theorem wordsOfTheTablesDecodeAsTheySay : Obligations.WordsOfTheTablesDecodeAsTheySay := by
  unfold Obligations.WordsOfTheTablesDecodeAsTheySay
  decide

end Sys2Proof
end

section
/-! What a word that is no command does (30_encoding.md R85, 60_exceptions.md R225). -/

namespace Sys2Proof.Machine

theorem illegalWord_eq (s : State) :
    illegalWord s = .next (if s.phase = .failed then s else { s with err := .illegal, phase := .failed }) := by
  unfold illegalWord
  split
  · next hf => exact unlessFailed_failed hf
  · next hf => exact unlessFailed_live hf

/-- Settles O6: the write reaches CMD, and a word that is no command raises ILLEGAL behind the FAILED filter. -/
theorem illegalWordRaisesIllegalUnlessFailed : Obligations.IllegalWordRaisesIllegalUnlessFailed := by
  intro s rest w why hpend hdec
  rw [step_write hpend (by decide) (by decide)]
  show performCmd w _ = _
  simp only [performCmd, hdec, illegalWord_eq]

end Sys2Proof.Machine
end

section
/-! CFG (40_session.md R102): which check it reports, and what it loads when all of them pass. -/

namespace Sys2Proof.Machine

theorem supportedDepth_iff_mem (bpp : Nat) : supportedDepth bpp = true ↔ bpp ∈ [1, 4, 8, 16, 24, 32] := by
  simp [supportedDepth_iff]

theorem indexedDepth_iff (bpp : Nat) : indexedDepth bpp = true ↔ bpp = 1 ∨ bpp = 4 ∨ bpp = 8 := by
  simp [indexedDepth, or_assoc]

/-- CFG_MODE.BPP holds every supported depth (10_state.md R27). -/
theorem toNat_ofNat_of_supportedDepth {bpp : Nat} (h : supportedDepth bpp = true) : (BitVec.ofNat 8 bpp).toNat = bpp := by
  rw [supportedDepth_iff] at h
  rw [BitVec.toNat_ofNat]
  omega

/-! ## PAL_LEN (10_state.md R31) and the default masks (41_mask_channel.md R132) -/

theorem palLenOf_unused {bpp : Nat} {clr : Word} (h : bpp > 8 ∧ clr = 0) : palLenOf bpp clr = 0 := if_pos h

theorem palLenOf_given (bpp : Nat) {clr : Word} (h : clr ≠ 0) : palLenOf bpp clr = clr := by
  rw [palLenOf, if_neg (fun hc => h hc.2), if_pos h]

theorem palLenOf_full {bpp : Nat} {clr : Word} (hb : bpp ≤ 8) (h : clr = 0) : (palLenOf bpp clr).toNat = 2 ^ bpp := by
  have hpow : 2 ^ bpp ≤ 2 ^ 8 := Nat.pow_le_pow_right (by decide) hb
  rw [palLenOf, if_neg (fun hc => by omega), if_neg (not_not.mpr h), BitVec.toNat_ofNat]
  exact Nat.mod_eq_of_lt (hpow.trans_lt (by decide))

theorem defaultMask_eq (bpp : Nat) :
    defaultMask bpp .r = (if bpp = 16 then 0x0000F800 else if bpp = 32 then 0x00FF0000 else 0) ∧
    defaultMask bpp .g = (if bpp = 16 then 0x000007E0 else if bpp = 32 then 0x0000FF00 else 0) ∧
    defaultMask bpp .b = (if bpp = 16 then 0x0000001F else if bpp = 32 then 0x000000FF else 0) ∧
    defaultMask bpp .a = (if bpp = 32 then 0xFF000000 else 0) := by
  refine ⟨?_, ?_, ?_, ?_⟩
  all_goals
    unfold defaultMask
    split <;> simp_all

/-! ## The checks in their order (60_exceptions.md R223) -/

section
variable {bpp : Nat} {s : State} (bf : Bool)

theorem exec_cfg_fmtDepth (h : supportedDepth bpp = false) : exec (.cfg bpp bf) s = raise .fmtDepth (clearSession s) :=
  if_pos h

theorem exec_cfg_fmtGeom (hd : supportedDepth bpp = true) (h : s.arg0.toInt ≤ 0 ∨ s.arg1.toInt = 0) :
    exec (.cfg bpp bf) s = raise .fmtGeom (clearSession s) := by
  simp only [exec, execCfg, hd, signedArg, h, reduceIte, Bool.true_eq_false]

theorem exec_cfg_capacity (hd : supportedDepth bpp = true) (hg : ¬ (s.arg0.toInt ≤ 0 ∨ s.arg1.toInt = 0))
    (h : s.arg0.toInt > s.params.maxWidth ∨ s.arg1.toInt.natAbs > s.params.maxHeight ∨
      rowBytesOf s.arg0.toInt.toNat bpp > s.params.rowbufBytes) :
    exec (.cfg bpp bf) s = raise .capacity (clearSession s) := by
  simp only [exec, execCfg, hd, signedArg, hg, h, reduceIte, Bool.true_eq_false]

theorem exec_cfg_passes (h : CfgOk bpp s) : exec (.cfg bpp bf) s = .next (loadSession bpp bf (clearSession s)) := by
  obtain ⟨hdepth, ⟨hw, hwMax⟩, ⟨hh, hhMax⟩, hrow⟩ := h
  have hgeom : ¬ (s.arg0.toInt ≤ 0 ∨ s.arg1.toInt = 0) := by omega
  have hcap : ¬ (s.arg0.toInt > s.params.maxWidth ∨ s.arg1.toInt.natAbs > s.params.maxHeight ∨
      rowBytesOf s.arg0.toInt.toNat bpp > s.params.rowbufBytes) := by omega
  simp only [exec, execCfg, hdepth, signedArg, hgeom, hcap, reduceIte, Bool.true_eq_false]

end

/-- The operands of a CFG that passes, with the width read as an unsigned number. -/
theorem CfgOk.of_operands {bpp : Nat} {s : State} (hd : bpp ∈ [1, 4, 8, 16, 24, 32]) (hw : 0 < s.arg0.toInt)
    (hh : s.arg1.toInt ≠ 0) (hwMax : s.arg0.toInt ≤ (s.params.maxWidth : Int)) (hhMax : s.arg1.toInt.natAbs ≤ s.params.maxHeight)
    (hrow : rowBytesOf s.arg0.toNat bpp ≤ s.params.rowbufBytes) : CfgOk bpp s :=
  { depth := (supportedDepth_iff_mem bpp).mpr hd, width := ⟨hw, hwMax⟩, height := ⟨hh, hhMax⟩
    row := (toNat_toInt_of_pos hw).symm ▸ hrow }

/-- Settles O30: the checks pass, and the session loaded is a configured one (`configured_loadSession`), which gives the sizes;
the other registers are as `loadSession` writes them. -/
theorem cfgStartsASession : Obligations.CfgStartsASession := by
  intro s bpp bf hd hw hh hwMax hhMax hrow hparams
  have hok : CfgOk bpp s := .of_operands hd hw hh hwMax hhMax hrow
  have hbpp := toNat_ofNat_of_supportedDepth hok.depth
  have hconf := configured_loadSession bf hparams hok
  have hrowBytes := hconf.rowBytes.trans (congrArg (rowBytesOf s.arg0.toNat) hbpp)
  obtain ⟨hr, hg, hb, ha⟩ := defaultMask_eq bpp
  have mask {m n : Word} (h : m = n) : (if bf then 0 else m) = if bf then 0 else n := congrArg _ h
  refine ⟨_, exec_cfg_passes bf hok, rfl, rfl, hbpp, rfl, rfl, rfl, rfl, palLenOf_unused, palLenOf_given bpp,
    fun ⟨hdepth, hclr⟩ => palLenOf_full hdepth hclr, rfl, hrowBytes, rfl, rfl, hconf.rowsTotal, mask hr, mask hg, mask hb,
    mask ha, rfl, indexedDepth_iff bpp, fun _ _ => rfl, rfl, rfl, rfl, rfl, rfl, rfl, rfl, rfl, rfl, rfl, rfl⟩

/-- Settles O31: on the operands of each error the checks before it pass, and it is raised over the cleared session. -/
theorem cfgThatFailsClearsAndReportsTheFirstCheck : Obligations.CfgThatFailsClearsAndReportsTheFirstCheck := by
  rintro s bpp bf e (⟨rfl, hd⟩ | ⟨rfl, hd, hgeom⟩ | ⟨rfl, hd, hw, hh, hcap⟩)
  all_goals rw [← supportedDepth_iff_mem] at hd
  · exact exec_cfg_fmtDepth bf (Bool.eq_false_of_not_eq_true hd)
  · exact exec_cfg_fmtGeom bf hd hgeom
  · refine exec_cfg_capacity bf hd (by omega) ?_
    rw [toNat_toInt_of_pos hw]
    exact hcap

end Sys2Proof.Machine
end

section
/-! The decode-entry check (40_session.md R110): its outcomes, and that the default masks pass it (41_mask_channel.md R132). -/

namespace Sys2Proof.Machine

/-- The host owes a mask: with BF = 1 it loads all four (R110). -/
def MasksAwaited (s : State) : Prop := s.bf = true ∧ s.maskValid ≠ 0xF

/-- A mask that the depth uses is refused: not contiguous, or at 16 bits with a bit above 15 (R110). -/
def MasksRefused (s : State) : Prop :=
  (s.bpp = 16 ∧ ∃ m ∈ [s.maskR, s.maskG, s.maskB], contig m = false ∨ m.extractLsb' 16 16 ≠ 0) ∨
    (s.bpp = 32 ∧ ∃ m ∈ [s.maskR, s.maskG, s.maskB, s.maskA], contig m = false)

theorem mask16Ok_iff (m : Word) : mask16Ok m = true ↔ contig m = true ∧ m.extractLsb' 16 16 = 0 := by
  rw [mask16Ok, Bool.and_eq_true, beq_iff_eq]

/-- The refusal of R110 in the terms `enterDecode` tests it in. -/
theorem masksRefused_iff (s : State) : MasksRefused s ↔
    (s.bpp = 16 ∧ ¬ (mask16Ok s.maskR = true ∧ mask16Ok s.maskG = true ∧ mask16Ok s.maskB = true)) ∨
    (s.bpp = 32 ∧
      ¬ (contig s.maskR = true ∧ contig s.maskG = true ∧ contig s.maskB = true ∧ contig s.maskA = true)) := by
  simp only [MasksRefused, List.exists_mem_cons_iff, List.not_mem_nil, false_and, exists_false, or_false, mask16Ok_iff,
    not_and_or, Bool.not_eq_true, ne_eq]

/-- Everything the entry check can find, in the order of its checks. -/
theorem enterDecode_cases (s : State) :
    (s.palCnt ≠ s.palLen ∧ enterDecode s = some .ioPalette) ∨
    (s.palCnt = s.palLen ∧ MasksAwaited s ∧ enterDecode s = some .ioMasks) ∨
    (s.palCnt = s.palLen ∧ ¬ MasksAwaited s ∧ MasksRefused s ∧ enterDecode s = some .mask) ∨
    (s.palCnt = s.palLen ∧ ¬ MasksAwaited s ∧ ¬ MasksRefused s ∧ enterDecode s = none) := by
  rw [masksRefused_iff]
  unfold enterDecode
  split
  · next hpal => exact .inl ⟨hpal, rfl⟩
  next hpal =>
  refine .inr ?_
  split
  · next hbf => exact .inl ⟨not_not.mp hpal, hbf, rfl⟩
  next hbf =>
  refine .inr ?_
  split
  · next h16 => exact .inl ⟨not_not.mp hpal, hbf, .inl h16, rfl⟩
  next h16 =>
  split
  · next h32 => exact .inl ⟨not_not.mp hpal, hbf, .inr h32, rfl⟩
  · next h32 => exact .inr ⟨not_not.mp hpal, hbf, not_or.mpr ⟨h16, h32⟩, rfl⟩

/-- Settles O37: the cases of the check exclude each other, so each outcome comes with its own conditions only. -/
theorem entryCheckFindsTheFirstFailure : Obligations.EntryCheckFindsTheFirstFailure := by
  intro s
  show
    (enterDecode s = some .ioPalette ↔ s.palCnt ≠ s.palLen) ∧
    (enterDecode s = some .ioMasks ↔ s.palCnt = s.palLen ∧ MasksAwaited s) ∧
    (enterDecode s = some .mask ↔ s.palCnt = s.palLen ∧ ¬ MasksAwaited s ∧ MasksRefused s) ∧
    (enterDecode s = none ↔ s.palCnt = s.palLen ∧ ¬ MasksAwaited s ∧ ¬ MasksRefused s)
  rcases enterDecode_cases s with ⟨hpal, h⟩ | ⟨hpal, hawait, h⟩ | ⟨hpal, hawait, hbad, h⟩ | ⟨hpal, hawait, hbad, h⟩
  · simp [h, hpal]
  · simp [h, hpal, hawait]
  · simp [h, hpal, hawait, hbad]
  · simp [h, hpal, hawait, hbad]

/-! ## The default masks -/

theorem contig_defaultMask (bpp : Nat) (c : Channel) : contig (defaultMask bpp c) = true := by
  unfold defaultMask
  split <;> decide

theorem defaultMask_sixteen_high (c : Channel) : (defaultMask 16 c).extractLsb' 16 16 = 0 := by
  cases c <;> decide

/-- A session on its default masks is refused none of them. -/
theorem not_masksRefused_of_default {s : State} (h : ∀ c, maskOf c s = defaultMask s.bpp.toNat c) : ¬ MasksRefused s := by
  have hcontig (c : Channel) : contig (maskOf c s) = true := h c ▸ contig_defaultMask _ c
  have hhigh (h16 : s.bpp = 16) (c : Channel) : (maskOf c s).extractLsb' 16 16 = 0 := by
    rw [h c, h16]
    exact defaultMask_sixteen_high c
  have hok (h16 : s.bpp = 16) (c : Channel) : mask16Ok (maskOf c s) = true :=
    (mask16Ok_iff _).mpr ⟨hcontig c, hhigh h16 c⟩
  rw [masksRefused_iff]
  rintro (⟨h16, hbad⟩ | ⟨-, hbad⟩)
  · exact hbad ⟨hok h16 .r, hok h16 .g, hok h16 .b⟩
  · exact hbad ⟨hcontig .r, hcontig .g, hcontig .b, hcontig .a⟩

/-- Settles O38, by the cases of the check: with BF = 0 no mask is awaited, and the masks are the default ones. -/
theorem defaultMasksPassTheEntryCheck : Obligations.DefaultMasksPassTheEntryCheck := by
  intro s hinv hp hbf
  obtain ⟨hconf, -, -⟩ := hinv.session.config hp
  obtain ⟨-, hmasks⟩ := hconf.masksDefault hbf
  rcases enterDecode_cases s with ⟨-, h⟩ | ⟨-, ⟨hawait, -⟩, -⟩ | ⟨-, -, hbad, -⟩ | ⟨-, -, -, h⟩
  · exact .inr h
  · exact absurd (hbf.symm.trans hawait) nofun
  · exact absurd hbad (not_masksRefused_of_default hmasks)
  · exact .inl h

end Sys2Proof.Machine
end

section
/-! NOP, RESET and the loading commands of a session: MASK_WR, PAL_PUSH, ROW_PUSH (40_session.md R100 to R107). -/

namespace Sys2Proof.Machine

/-! ## NOP and RESET -/

/-- A word with OP 0 is NOP or illegal, by its immediate field (30_encoding.md R81). -/
theorem decode_op_zero (imm : BitVec 24) : decode (0#8 ++ imm : BitVec 32) = decodeZ .nop imm := by
  rw [decode, opField_append, immField_append]
  rfl

/-- Settles O28: NOP is of format Z, so its immediate must be 0, and any other word with OP 0 is an illegal word. -/
theorem nopChangesNothing : Obligations.NopChangesNothing := by
  refine ⟨fun _ => rfl, rfl, fun imm himm => ?_⟩
  have hdec : decode (0#8 ++ imm : BitVec 32) = .illegal .reservedField := (decode_op_zero imm).trans (if_neg himm)
  refine ⟨⟨_, hdec⟩, fun s hp => ?_⟩
  simp only [performCmd, hdec, illegalWord_eq, if_neg hp]

/-- Settles O29: RESET is `clearSession`, written out. -/
theorem resetClearsTheSession : Obligations.ResetClearsTheSession := ⟨rfl, fun _ => rfl⟩

/-! ## MASK_WR and PAL_PUSH -/

section
variable {s : State}

theorem exec_maskWr_loads (ch : Channel) (hp : s.phase = .config) (hb : s.bf = true) :
    exec (.maskWr ch) s = .next { setMask ch s.arg0 s with maskValid := markMaskValid ch s.maskValid } := by
  simp [exec, execMaskWr, unlessFailed, hp, hb]

theorem exec_maskWr_seq (ch : Channel) (hf : s.phase ≠ .failed) (h : s.phase ≠ .config ∨ s.bf = false) :
    exec (.maskWr ch) s = raise .seq s := by
  rw [exec, execMaskWr, unlessFailed_live hf]
  split
  · rfl
  · next hp => exact if_pos (by simp [h.resolve_left hp])

theorem exec_palPush_stores (hp : s.phase = .config) (hc : s.palCnt.toNat < s.palLen.toNat) (hd : s.palCnt.toNat < 256) :
    exec .palPush s =
      .next { setPalEntry s.palCnt.toNat (paletteEntry s.arg0) s with palCnt := s.palCnt + 1 } := by
  simp [exec, execPalPush, unlessFailed, Config.palDepth, hp, hc, hd]

theorem exec_palPush_discards (hp : s.phase = .config) (hc : s.palCnt.toNat < s.palLen.toNat)
    (hd : 256 ≤ s.palCnt.toNat) : exec .palPush s = .next { s with palCnt := s.palCnt + 1 } := by
  simp [exec, execPalPush, unlessFailed, Config.palDepth, hp, hc.not_ge, hd.not_gt]

theorem exec_palPush_seq (hf : s.phase ≠ .failed) (h : s.phase ≠ .config ∨ s.palLen.toNat ≤ s.palCnt.toNat) :
    exec .palPush s = raise .seq s := by
  rw [exec, execPalPush, unlessFailed_live hf]
  split
  · rfl
  · next hp => exact if_pos (h.resolve_left hp)

end

/-- Settles O32: the masks and the valid bits by the rules of `setMask` and `markMaskValid`, the rest channel by channel. -/
theorem maskWrLoadsOneMask : Obligations.MaskWrLoadsOneMask := by
  intro s ch hp hb
  have hmask (c : Channel) :
      maskOf c { setMask ch s.arg0 s with maskValid := markMaskValid ch s.maskValid } = maskOf c (setMask ch s.arg0 s) := by
    cases c <;> rfl
  refine ⟨_, exec_maskWr_loads ch hp hb, ?loaded, fun c hc => ?others, fun c => getLsbD_markMaskValid ch c _, ?msw, ?frame⟩
  case loaded => rw [hmask, maskOf_setMask_same]
  case others => rw [hmask, maskOf_setMask_other ch c _ s hc]
  case msw => rw [memRead_msw, hmask, maskOf_setMask_same]
  case frame => cases ch <;> rfl

/-- Settles O33: below 256 the entry is stored (`palEntry_setPalEntry`), above it no entry is written. -/
theorem palPushAppendsOneEntry : Obligations.PalPushAppendsOneEntry := by
  intro s hp hc
  have hcnt : (s.palCnt + 1).toNat = s.palCnt.toNat + 1 := by bv_omega
  by_cases hd : s.palCnt.toNat < 256
  · refine ⟨_, exec_palPush_stores hp hc hd, hcnt, fun k => ?_, rfl⟩
    refine (palEntry_setPalEntry s.palCnt.toNat k _ s).trans (if_congr ?_ rfl rfl)
    exact ⟨fun hk => ⟨hk, hk ▸ hd⟩, And.left⟩
  · refine ⟨_, exec_palPush_discards hp hc (by omega), hcnt, fun k => ?_, rfl⟩
    rw [if_neg (by omega)]
    rfl

/-- Settles O34, command by command. -/
theorem loadingOutOfOrderRaisesSeq : Obligations.LoadingOutOfOrderRaisesSeq :=
  fun _ hf => ⟨fun h ch => exec_maskWr_seq ch hf h, fun h => exec_palPush_seq hf h⟩

/-! ## ROW_PUSH -/

/-- Once the entry check is passed ROW_PUSH is the overrun check and the writes (R107). -/
theorem exec_rowPush_entered {s : State} (hp : s.phase = .decode ∨ s.phase = .config ∧ enterDecode s = none) :
    exec .rowPush s = pushRow s := by
  rcases hp with hp | ⟨hp, he⟩
  · simp [exec, execRowPush, unlessFailed, hp]
  · simp [exec, execRowPush, unlessFailed, hp, he]

theorem pushRow_overrun {s : State} (h : s.rowBytes.toNat ≤ s.rowWptr.toNat) : pushRow s = raise .seq s := if_pos h

/-- A push that starts inside the row of a configured session stores its bytes (R107). -/
theorem Configured.pushRow_stores {s : State} (h : Configured s) (hw : s.rowWptr.toNat < s.rowBytes.toNat) :
    pushRow s = .next { pushBytes s with phase := .decode, rowWptr := s.rowWptr + 4 } := by
  rw [pushRow, if_neg (Nat.not_le_of_lt hw), if_pos (h.pushInRowbuf hw)]

/-- ROW_WPTR does not wrap: it stays at most ROW_BYTES. -/
theorem Configured.rowWptr_add_four {s : State} (h : Configured s) (hw : s.rowWptr.toNat < s.rowBytes.toNat) :
    (s.rowWptr + 4).toNat = s.rowWptr.toNat + 4 := by
  have hmod := h.rowWptr.1
  have hrow : s.rowBytes.toNat % 4 = 0 := h.rowBytes ▸ rowBytesOf_mod_four _ _
  bv_omega

/-- Settles O35: under the invariant the push stays in ROWBUF, and `pushBytes` writes the four bytes and no other. -/
theorem rowPushStoresFourBytes : Obligations.RowPushStoresFourBytes := by
  intro s hinv hp hw
  obtain ⟨hconf, -, -⟩ := hinv.session.entered hp
  exact ⟨_, (exec_rowPush_entered hp).trans (hconf.pushRow_stores hw), rfl, hconf.rowWptr_add_four hw,
    fun _ hj => rowByte_pushBytes_in hj, fun _ hk => rowByte_pushBytes_out hk, rfl⟩

/-- Settles O36: the phase check, then the entry check, then the overrun check. -/
theorem rowPushRefusesInOrder : Obligations.RowPushRefusesInOrder := by
  refine fun s => ⟨fun hp => ?phase, fun e hp he => ?entry, fun hp hw => ?overrun⟩
  case phase => rcases hp with hp | hp <;> simp [exec, execRowPush, unlessFailed, hp]
  case entry => simp [exec, execRowPush, unlessFailed, hp, he]
  case overrun => exact (exec_rowPush_entered hp).trans (pushRow_overrun hw)

end Sys2Proof.Machine
end

section
/-! The mask analyzer and the channel extractor: the lowest run of a mask, contiguity, and `extract` (41_mask_channel.md R130,
R131, R134). -/

namespace Sys2Proof.Machine

section
variable {m : Word}

/-- The search of R130 finds the lowest set bit of a mask that has one. -/
theorem maskShift_lowest (h : m ≠ 0) :
    maskShift m ≤ 31 ∧ m.getLsbD (maskShift m) = true ∧ ∀ i, i < maskShift m → m.getLsbD i = false := by
  unfold maskShift
  cases hfind : (List.range 32).find? (fun i => m.getLsbD i) with
  | none =>
    refine absurd (BitVec.eq_of_getLsbD_eq fun i hi => ?_) h
    simpa using List.find?_eq_none.mp hfind i (List.mem_range.mpr hi)
  | some s =>
    obtain ⟨hset, hmem, hlow⟩ := List.find?_range_eq_some.mp hfind
    exact ⟨Nat.le_of_lt_succ (List.mem_range.mp hmem), hset, fun i hi => by simpa using hlow i hi⟩

theorem maskShift_le (m : Word) : maskShift m ≤ 31 := by
  by_cases h : m = 0
  · subst h
    decide
  · exact (maskShift_lowest h).1

/-- The run is as long as the first clear bit above the shift is far, or reaches bit 31. -/
theorem maskWidth_eq_findIdx (m : Word) :
    maskWidth m = (List.range (32 - maskShift m)).findIdx (fun k => !m.getLsbD (maskShift m + k)) := by
  rw [maskWidth, maskRun, List.takeWhile_eq_take_findIdx_not, List.length_take]
  exact Nat.min_eq_left List.findIdx_le_length

theorem maskWidth_le (m : Word) : maskWidth m ≤ 32 - maskShift m := by
  rw [maskWidth_eq_findIdx]
  exact List.findIdx_le_length.trans_eq List.length_range

theorem getLsbD_in_maskRun {k : Nat} (h : k < maskWidth m) : m.getLsbD (maskShift m + k) = true := by
  rw [maskWidth_eq_findIdx] at h
  simpa using List.not_of_lt_findIdx h

theorem getLsbD_after_maskRun (h : maskShift m + maskWidth m ≤ 31) :
    m.getLsbD (maskShift m + maskWidth m) = false := by
  have hidx := maskWidth_eq_findIdx m
  have hlt : maskWidth m < (List.range (32 - maskShift m)).length := by
    rw [List.length_range]
    omega
  rw [hidx] at hlt
  rw [hidx]
  simpa using List.findIdx_getElem (w := hlt)

theorem maskWidth_pos (h : m ≠ 0) : 1 ≤ maskWidth m := by
  obtain ⟨hle, hset, -⟩ := maskShift_lowest h
  by_contra hw
  have hzero : maskWidth m = 0 := by omega
  have hclear := getLsbD_after_maskRun (m := m) (by omega)
  rw [hzero, Nat.add_zero, hset] at hclear
  cases hclear

/-- Settles O39: the shift is the lowest set bit, and the run ends at the first clear bit above it. -/
theorem analyzeFindsTheLowestRun : Obligations.AnalyzeFindsTheLowestRun := by
  refine ⟨by decide, by decide, fun m hm => ?_⟩
  obtain ⟨hle, hset, hlow⟩ := maskShift_lowest hm
  exact ⟨hle, hset, hlow, maskWidth_pos hm, maskWidth_le m, fun k => getLsbD_in_maskRun, getLsbD_after_maskRun⟩

/-! ## Contiguity -/

/-- A mask is contiguous when its set bits are those of its lowest run, and no others. -/
theorem contig_iff_getLsbD (m : Word) :
    contig m = true ↔ ∀ i, m.getLsbD i = decide (maskShift m ≤ i ∧ i < maskShift m + maskWidth m) := by
  have hrun (i : Nat) : ((2 ^ maskWidth m - 1) <<< maskShift m).testBit i =
      decide (maskShift m ≤ i ∧ i < maskShift m + maskWidth m) := by
    rw [Nat.testBit_shiftLeft, Nat.testBit_two_pow_sub_one, ← Bool.decide_and]
    exact decide_eq_decide.mpr (by omega)
  rw [contig, beq_iff_eq]
  constructor
  · intro h i
    rw [← BitVec.testBit_toNat, h, hrun]
  · intro h
    refine Nat.eq_of_testBit_eq fun i => ?_
    rw [BitVec.testBit_toNat, h, hrun]

section
variable {lo hi : Nat} (hle : lo ≤ hi) (hbits : ∀ i, m.getLsbD i = decide (lo ≤ i ∧ i ≤ hi))
include hle hbits

theorem maskShift_of_run : m ≠ 0 ∧ maskShift m = lo := by
  have hset : m.getLsbD lo = true := (hbits lo).trans (decide_eq_true ⟨le_rfl, hle⟩)
  have hm : m ≠ 0 := by
    rintro rfl
    simp at hset
  obtain ⟨-, hshift, hlow⟩ := maskShift_lowest hm
  have hge := (of_decide_eq_true ((hbits _).symm.trans hshift)).1
  refine ⟨hm, hge.antisymm' (Nat.le_of_not_lt fun hlt => ?_)⟩
  exact absurd (hset.symm.trans (hlow lo hlt)) nofun

theorem maskWidth_of_run (hhi : hi ≤ 31) : maskShift m + maskWidth m = hi + 1 := by
  obtain ⟨hm, hshift⟩ := maskShift_of_run hle hbits
  have hpos := maskWidth_pos hm
  have hlast : m.getLsbD (maskShift m + (maskWidth m - 1)) = true := getLsbD_in_maskRun (by omega)
  have hlast_le := (of_decide_eq_true ((hbits _).symm.trans hlast)).2
  by_contra hne
  have hnext := getLsbD_after_maskRun (m := m) (by omega)
  have := of_decide_eq_false ((hbits _).symm.trans hnext)
  omega

theorem contig_of_run (hhi : hi ≤ 31) : contig m = true := by
  obtain ⟨-, hshift⟩ := maskShift_of_run hle hbits
  have hwidth := maskWidth_of_run hle hbits hhi
  refine (contig_iff_getLsbD m).mpr fun i => ?_
  rw [hbits i, hwidth, hshift]
  exact decide_eq_decide.mpr (by omega)

end
end

/-- Settles O40: a contiguous mask is its lowest run, and a mask that is one run has that run as its lowest. -/
theorem contigIsOneUnbrokenRun : Obligations.ContigIsOneUnbrokenRun := by
  intro m
  constructor
  · intro h
    by_cases hm : m = 0
    · exact .inl hm
    have hpos := maskWidth_pos hm
    have hle := maskWidth_le m
    refine .inr ⟨maskShift m, maskShift m + maskWidth m - 1, by omega, by omega, fun i => ?_⟩
    rw [(contig_iff_getLsbD m).mp h]
    exact decide_eq_decide.mpr (by omega)
  · rintro (rfl | ⟨lo, hi, hle, hhi, hbits⟩)
    · decide
    · exact contig_of_run hle hbits hhi

/-! ## Extraction -/

/-- `extract` in the arithmetic of R134. -/
theorem extract_eq (p m : Word) : extract p m = p.toNat / 2 ^ maskShift m % 2 ^ maskWidth m := by
  rw [extract, Nat.and_two_pow_sub_one_eq_mod, Nat.shiftRight_eq_div_pow]

/-- For a contiguous mask it is the same to mask first and then to shift. -/
theorem extract_of_contig (p : Word) {m : Word} (h : contig m = true) :
    extract p m = (p &&& m).toNat >>> maskShift m := by
  refine Nat.eq_of_testBit_eq fun i => ?_
  have hmask : m.toNat.testBit (maskShift m + i) = decide (i < maskWidth m) := by
    rw [BitVec.testBit_toNat, (contig_iff_getLsbD m).mp h]
    exact decide_eq_decide.mpr (by omega)
  rw [extract, Nat.testBit_and, Nat.testBit_two_pow_sub_one, Nat.testBit_shiftRight, Nat.testBit_shiftRight,
    BitVec.toNat_and, Nat.testBit_and, hmask]

/-- Settles O41, bit by bit for a contiguous mask. -/
theorem extractOfAContiguousMaskIsMaskThenShift : Obligations.ExtractOfAContiguousMaskIsMaskThenShift := by
  refine fun p m => ⟨extract_eq p m, fun hw => ?_, extract_of_contig p⟩
  rw [extract_eq, hw, pow_zero, Nat.mod_one]

end Sys2Proof.Machine
end

section
/-! The widening of a channel to 16 bits: REPLICATE, its iterative form, and the laws of EXPAND16 (41_mask_channel.md R135,
R136). -/

namespace Sys2Proof.Machine

/-! ## Numbers from bits -/

theorem bitsToNat_lt (f : Nat → Bool) (k : Nat) : bitsToNat f k < 2 ^ k := by
  induction k with
  | zero => exact Nat.one_pos
  | succ k ih =>
    have hbit : (f k).toNat * 2 ^ k ≤ 1 * 2 ^ k := Nat.mul_le_mul_right _ (Bool.toNat_le _)
    rw [bitsToNat, pow_succ]
    omega

theorem testBit_bitsToNat (f : Nat → Bool) (k i : Nat) : (bitsToNat f k).testBit i = (decide (i < k) && f i) := by
  induction k with
  | zero => simp [bitsToNat]
  | succ k ih =>
    have hlt := bitsToNat_lt f k
    rw [bitsToNat, Nat.add_comm, Nat.mul_comm, Nat.two_pow_add_eq_or_of_lt hlt, Nat.testBit_or, ih,
      Nat.testBit_two_pow_mul]
    rcases Nat.lt_trichotomy i k with h | rfl | h
    · simp [h, h.not_ge, Nat.lt_succ_of_lt h]
    · cases f i <;> simp
    · have hout : (f k).toNat < 2 ^ (i - k) := (Bool.toNat_lt _).trans_le (Nat.le_self_pow (by omega) 2)
      simp [h.not_gt, Nat.not_lt.mpr (Nat.succ_le_of_lt h), Nat.testBit_lt_two_pow hout]

/-! ## REPLICATE -/

/-- Bit i of REPLICATE (R135). -/
theorem testBit_expand16_replicate {v n : Nat} (hn : 1 ≤ n) (i : Nat) :
    (expand16 .replicate v n).toNat.testBit i = (decide (i < 16) && replicateBit v n i) := by
  have hlt := bitsToNat_lt (replicateBit v n) 16
  rw [expand16, replicateExpand, if_neg (by omega), BitVec.toNat_ofNat, Nat.mod_eq_of_lt hlt, testBit_bitsToNat]

/-- From bit 15 down, the c-th n bits of REPLICATE are the channel. -/
theorem replicateBit_copy (v : Nat) {n c i : Nat} (hc : 1 ≤ c) (hfit : c * n ≤ 16) (hi : i < n) :
    replicateBit v n (16 - c * n + i) = v.testBit i := by
  obtain ⟨c, rfl⟩ := Nat.exists_eq_add_of_le' hc
  rw [Nat.succ_mul] at hfit ⊢
  have hdist : 15 - (16 - (c * n + n) + i) = n - 1 - i + n * c := by
    rw [Nat.mul_comm n c]
    omega
  rw [replicateBit, hdist, Nat.add_mul_mod_self_left, Nat.mod_eq_of_lt (by omega)]
  congr 1
  omega

theorem expand16_replicate_copy {v n c : Nat} (hv : v < 2 ^ n) (hn : 1 ≤ n) (hc : 1 ≤ c) (hfit : c * n ≤ 16) :
    (expand16 .replicate v n).toNat / 2 ^ (16 - c * n) % 2 ^ n = v := by
  have hle : n ≤ c * n := Nat.le_mul_of_pos_left n hc
  refine Nat.eq_of_testBit_eq fun i => ?_
  rw [Nat.testBit_mod_two_pow, Nat.testBit_div_two_pow, testBit_expand16_replicate hn, Nat.add_comm i]
  by_cases hi : i < n
  · have hin : 16 - c * n + i < 16 := by omega
    rw [replicateBit_copy v hc hfit hi, decide_eq_true hi, decide_eq_true hin, Bool.true_and, Bool.true_and]
  · have hout : v < 2 ^ i := hv.trans_le (Nat.pow_le_pow_right (by decide) (Nat.le_of_not_lt hi))
    rw [decide_eq_false hi, Bool.false_and, Nat.testBit_lt_two_pow hout]

theorem expand16_replicate_ones {n : Nat} (hn : 1 ≤ n) : expand16 .replicate (2 ^ n - 1) n = 0xFFFF := by
  refine BitVec.eq_of_getLsbD_eq fun i hi => ?_
  have hbit : replicateBit (2 ^ n - 1) n i = true := by
    rw [replicateBit, Nat.testBit_two_pow_sub_one]
    exact decide_eq_true (by omega)
  rw [← BitVec.testBit_toNat, testBit_expand16_replicate hn, hbit, Bool.and_true]
  exact BitVec.getLsbD_allOnes.symm

theorem expand16_replicate_zero {n : Nat} (hn : 1 ≤ n) : expand16 .replicate 0 n = 0 := by
  refine BitVec.eq_of_getLsbD_eq fun i hi => ?_
  rw [← BitVec.testBit_toNat, testBit_expand16_replicate hn, replicateBit, Nat.zero_testBit, Bool.and_false]
  exact BitVec.getLsbD_zero.symm

/-! ## The iterative form -/

/-- The top c copies of the channel, cut at bit 0, and nothing below them: what `r` holds in the loop of R135 when k = c * n. -/
def TopCopies (v n c r : Nat) : Prop :=
  ∀ i, r.testBit i = (decide (i < 16 ∧ 16 ≤ i + c * n) && replicateBit v n i)

/-- Before the loop: the channel stands at the top. -/
theorem topCopies_one {v n : Nat} (hn : 1 ≤ n) (hn16 : n ≤ 16) (hv : v < 2 ^ n) : TopCopies v n 1 (v <<< (16 - n)) := by
  intro i
  rw [Nat.testBit_shiftLeft, Nat.one_mul]
  by_cases htop : 16 - n ≤ i
  · by_cases hi : i < 16
    · have hcopy := replicateBit_copy v (n := n) (c := 1) (i := i - (16 - n)) le_rfl (by omega) (by omega)
      rw [Nat.one_mul, Nat.add_sub_cancel' htop] at hcopy
      rw [hcopy, decide_eq_true htop, decide_eq_true (by omega)]
    · have hout : v < 2 ^ (i - (16 - n)) := hv.trans_le (Nat.pow_le_pow_right (by decide) (by omega))
      rw [Nat.testBit_lt_two_pow hout, Bool.and_false, decide_eq_false (by omega), Bool.false_and]
  · rw [decide_eq_false htop, decide_eq_false (by omega), Bool.false_and, Bool.false_and]

/-- One round of the loop doubles the copies. -/
theorem TopCopies.round {v n c r : Nat} (h : TopCopies v n c r) :
    TopCopies v n (2 * c) (if c * n < 16 then r ||| (r >>> (c * n)) else r) := by
  intro i
  have hdouble : 2 * c * n = c * n + c * n := by ring
  rw [hdouble]
  split
  · next hlt =>
    rw [Nat.testBit_or, Nat.testBit_shiftRight, h, h]
    by_cases hi : c * n + i < 16
    · have hperiod : replicateBit v n (c * n + i) = replicateBit v n i := by
        have hdist : 15 - i = 15 - (c * n + i) + c * n := by omega
        rw [replicateBit, replicateBit, hdist, Nat.add_mul_mod_self_right]
      rw [hperiod, ← Bool.and_or_distrib_right, ← Bool.decide_or]
      congr 1
      exact decide_eq_decide.mpr (by omega)
    · rw [decide_eq_false (p := c * n + i < 16 ∧ _) (by omega), Bool.false_and, Bool.or_false]
      congr 1
      exact decide_eq_decide.mpr (by omega)
  · next hge =>
    rw [h]
    congr 1
    exact decide_eq_decide.mpr (by omega)

/-- After the loop the copies reach bit 0, and `r` is REPLICATE. -/
theorem TopCopies.eq_replicate {v n c r : Nat} (h : TopCopies v n c r) (hn : 1 ≤ n) (hc : 16 ≤ c * n) :
    (expand16 .replicate v n).toNat = r := by
  refine Nat.eq_of_testBit_eq fun i => ?_
  rw [testBit_expand16_replicate hn, h]
  congr 1
  exact decide_eq_decide.mpr (by omega)

/-- Settles O42: four rounds double one copy to sixteen, which reach bit 0 for every width. -/
theorem replicateRepeatsTheChannelDownward : Obligations.ReplicateRepeatsTheChannelDownward := by
  refine ⟨fun v => rfl, fun v n hn hn16 hv => ⟨fun i hi => ?bits, ?loop⟩⟩
  case bits =>
    rw [← BitVec.testBit_toNat, testBit_expand16_replicate hn, decide_eq_true hi, Bool.true_and, replicateBit]
  case loop =>
    have hfirst := (topCopies_one hn hn16 hv).round
    rw [Nat.one_mul] at hfirst
    exact hfirst.round.round.round.eq_replicate hn (by omega)

/-! ## The laws of EXPAND16 -/

/-- A number over free low bits, read back from the top of 16 bits. -/
theorem high_field_of_sum {u a b : Nat} (hab : a + b = 16) (hu : u < 2 ^ a) (free : Nat) :
    (BitVec.ofNat 16 (u * 2 ^ b + free % 2 ^ b)).toNat / 2 ^ b = u := by
  have hfree := Nat.mod_lt free (Nat.two_pow_pos b)
  have hlt : u * 2 ^ b + free % 2 ^ b < 2 ^ 16 := by
    calc u * 2 ^ b + free % 2 ^ b < (u + 1) * 2 ^ b := by rw [Nat.succ_mul]; omega
      _ ≤ 2 ^ a * 2 ^ b := Nat.mul_le_mul_right _ hu
      _ = 2 ^ 16 := by rw [← pow_add, hab]
  rw [BitVec.toNat_ofNat, Nat.mod_eq_of_lt hlt, Nat.add_comm, Nat.add_mul_div_right _ _ (Nat.two_pow_pos b),
    Nat.div_eq_of_lt hfree, Nat.zero_add]

theorem lawfulExpand_zero (n : Nat) : lawfulExpand 0 n = 0 := if_pos (.inr rfl)

theorem lawfulExpand_ones {n : Nat} (hn : 1 ≤ n) : lawfulExpand (2 ^ n - 1) n = 0xFFFF := by
  have hpow : 2 ≤ 2 ^ n := Nat.le_self_pow (by omega) 2
  rw [lawfulExpand, if_neg (by omega), if_pos rfl]

/-- L1 and L4 of R136: the channel stands at the top of the widened value and, where there is room, once more below. -/
def RepeatsAtTop (v n : Nat) (out : Half) : Prop :=
  out.toNat / 2 ^ (16 - n) = v ∧ (2 * n ≤ 16 → out.toNat / 2 ^ (16 - 2 * n) % 2 ^ n = v)

/-- Two copies of the channel over free low bits: together they are one field of width 2 * n. -/
theorem repeatsAtTop_two_copies {v n : Nat} (hv : v < 2 ^ n) (h2 : 2 * n ≤ 16) (free : Nat) :
    RepeatsAtTop v n
      (BitVec.ofNat 16 (v * 2 ^ (16 - n) + v * 2 ^ (16 - 2 * n) + free % 2 ^ (16 - 2 * n))) := by
  have hsplit : 2 ^ (16 - n) = 2 ^ (16 - 2 * n) * 2 ^ n := by
    rw [← pow_add]
    congr 1
    omega
  have hpair : v * 2 ^ (16 - n) + v * 2 ^ (16 - 2 * n) = (v * 2 ^ n + v) * 2 ^ (16 - 2 * n) := by
    rw [hsplit]
    ring
  have hlt : v * 2 ^ n + v < 2 ^ (2 * n) := by
    calc v * 2 ^ n + v < (v + 1) * 2 ^ n := by rw [Nat.succ_mul]; omega
      _ ≤ 2 ^ n * 2 ^ n := Nat.mul_le_mul_right _ hv
      _ = 2 ^ (2 * n) := by rw [← pow_add, two_mul]
  have hfield := high_field_of_sum (by omega : 2 * n + (16 - 2 * n) = 16) hlt free
  rw [hpair]
  refine ⟨?_, fun _ => ?_⟩
  · rw [hsplit, ← Nat.div_div_eq_div_mul, hfield, Nat.add_comm, Nat.add_mul_div_right _ _ (Nat.two_pow_pos n),
      Nat.div_eq_of_lt hv, Nat.zero_add]
  · rw [hfield, Nat.mul_add_mod_self_right, Nat.mod_eq_of_lt hv]

section
variable {v n : Nat} (hn : 1 ≤ n) (hn16 : n ≤ 16) (hv : v < 2 ^ n)
include hn hn16 hv

theorem expand16_replicate_repeatsAtTop : RepeatsAtTop v n (expand16 .replicate v n) := by
  refine ⟨?_, expand16_replicate_copy hv hn (by decide)⟩
  have hcopy := expand16_replicate_copy hv hn le_rfl (by omega)
  rw [Nat.one_mul, Nat.mod_eq_of_lt] at hcopy
  · exact hcopy
  · rw [Nat.div_lt_iff_lt_mul (Nat.two_pow_pos _), ← pow_add, Nat.add_sub_cancel' hn16]
    exact BitVec.isLt _

theorem lawfulExpand_repeatsAtTop : RepeatsAtTop v n (lawfulExpand v n) := by
  by_cases hzero : v = 0
  · rw [hzero, lawfulExpand_zero, ← expand16_replicate_zero hn]
    exact expand16_replicate_repeatsAtTop hn hn16 (Nat.two_pow_pos n)
  by_cases hones : v = 2 ^ n - 1
  · rw [hones, lawfulExpand_ones hn, ← expand16_replicate_ones hn]
    exact expand16_replicate_repeatsAtTop hn hn16 (hones ▸ hv)
  rw [lawfulExpand, if_neg (by omega), if_neg hones]
  split
  · next h2 => exact repeatsAtTop_two_copies hv h2 _
  · next h2 => exact ⟨high_field_of_sum (by omega) hv _, fun h => absurd h h2⟩

theorem expand16_repeatsAtTop (e : Expand16) : RepeatsAtTop v n (expand16 e v n) := by
  cases e with
  | replicate => exact expand16_replicate_repeatsAtTop hn hn16 hv
  | lawful => exact lawfulExpand_repeatsAtTop hn hn16 hv

end

theorem expand16_ones (e : Expand16) {n : Nat} (hn : 1 ≤ n) : expand16 e (2 ^ n - 1) n = 0xFFFF := by
  cases e with
  | replicate => exact expand16_replicate_ones hn
  | lawful => exact lawfulExpand_ones hn

theorem expand16_zero (e : Expand16) {n : Nat} (hn : 1 ≤ n) : expand16 e 0 n = 0 := by
  cases e with
  | replicate => exact expand16_replicate_zero hn
  | lawful => exact lawfulExpand_zero n

/-- Settles O43: L1 and L4 are `RepeatsAtTop`, and L5 is L1 at width 16. -/
theorem everyExpand16ObeysTheLaws : Obligations.EveryExpand16ObeysTheLaws := by
  intro e n v hn hn16 hv
  obtain ⟨htop, hsecond⟩ := expand16_repeatsAtTop hn hn16 hv e
  refine ⟨htop, expand16_ones e hn, expand16_zero e hn, hsecond, ?_⟩
  rintro rfl
  rwa [Nat.sub_self, pow_zero, Nat.div_one] at htop

end Sys2Proof.Machine
end

section
/-! The commands that expose the analyzer and the extractor: MASK_AN, CHX16, CHX32 (41_mask_channel.md R140 to R142). -/

namespace Sys2Proof.Machine

/-- The fields of an analysis word do not overlap: SHIFT and WIDTH fit in eight bits each. -/
theorem analysisWord_toNat (m : Word) :
    (analysisWord m).toNat = maskShift m + maskWidth m * 2 ^ 8 + (contig m).toNat * 2 ^ 16 := by
  have hshift := maskShift_le m
  have hwidth := maskWidth_le m
  have hs : maskShift m % 2 ^ 8 = maskShift m := Nat.mod_eq_of_lt (by omega)
  have hw : maskWidth m % 2 ^ 8 = maskWidth m := Nat.mod_eq_of_lt (by omega)
  rw [analysisWord, BitVec.toNat_append, BitVec.toNat_append, BitVec.toNat_append, BitVec.toNat_ofBool,
    BitVec.toNat_ofNat, BitVec.toNat_ofNat, BitVec.toNat_ofNat, hs, hw,
    ← Nat.shiftLeft_add_eq_or_of_lt (by omega : maskShift m < 2 ^ 8),
    ← Nat.shiftLeft_add_eq_or_of_lt (by omega : maskWidth m < 2 ^ 8)]
  cases contig m <;> simp [Nat.shiftLeft_eq] <;> omega

/-- Settles O44: outside FAILED the result is the analysis word. -/
theorem maskAnReportsTheAnalysis : Obligations.MaskAnReportsTheAnalysis :=
  ⟨by decide, fun s => ⟨fun hf => ⟨analysisWord s.arg0, unlessFailed_live hf, analysisWord_toNat _⟩, unlessFailed_failed⟩⟩

section
variable {s : State} (hf : s.phase ≠ .failed)
include hf

theorem exec_chx16_widens (h : mask16Ok s.arg1 = true) :
    exec .chx16 s = .next (setResult ((channel16 s.params.expand16 s.arg0 s.arg1).setWidth 32) 0 0 s) := by
  rw [exec, execChx16, unlessFailed_live hf, h, if_neg nofun]

theorem exec_chx16_mask (h : mask16Ok s.arg1 = false) : exec .chx16 s = raise .mask s := by
  rw [exec, execChx16, unlessFailed_live hf, if_pos h]

theorem exec_chx32_extracts (h : contig s.arg1 = true) :
    exec .chx32 s = .next (setResult ((channel8 s.arg0 s.arg1).setWidth 32) 0 0 s) := by
  rw [exec, execChx32, unlessFailed_live hf, h, if_neg nofun]

theorem exec_chx32_mask (h : contig s.arg1 = false) : exec .chx32 s = raise .mask s := by
  rw [exec, execChx32, unlessFailed_live hf, if_pos h]

end

theorem mask16Ok_eq_false_iff (m : Word) : mask16Ok m = false ↔ contig m = false ∨ m.extractLsb' 16 16 ≠ 0 := by
  rw [← Bool.not_eq_true, mask16Ok_iff, not_and_or, Bool.not_eq_true]

/-- Settles O45, by the mask check; the channel is `extract` in the arithmetic of R134. -/
theorem chx16WidensOneChannel : Obligations.Chx16WidensOneChannel := by
  refine fun s hf => ⟨fun h => ?_, fun h => exec_chx16_mask hf ((mask16Ok_eq_false_iff _).mpr h)⟩
  rw [exec_chx16_widens hf ((mask16Ok_iff _).mpr h), channel16, extract_eq, BitVec.ofNat_toNat]
  rfl

/-- The low byte of a channel, widened for a result register. -/
theorem channel8_setWidth (p m : Word) :
    (channel8 p m).setWidth 32 = BitVec.ofNat 32 (p.toNat / 2 ^ maskShift m % 2 ^ maskWidth m % 256) := by
  rw [channel8, extract_eq, ← BitVec.ofNat_toNat, BitVec.toNat_ofNat]

/-- Settles O46, by the mask check. -/
theorem chx32TakesTheLowByteOfOneChannel : Obligations.Chx32TakesTheLowByteOfOneChannel := by
  refine fun s hf => ⟨fun h => ?_, exec_chx32_mask hf⟩
  rw [exec_chx32_extracts hf h, channel8_setWidth]
  rfl

end Sys2Proof.Machine
end

section
/-! The geometry of a scanline: how many bytes hold it, and the image row it goes to (42_scanline_decoders.md R160 to R162). -/

namespace Sys2Proof.Machine

/-- The padding of a scanline to whole 32-bit words is at most 3 bytes (R161). -/
theorem rowBytesOf_sub_dataBytes_le (w n : Nat) : rowBytesOf w n - dataBytes w n ≤ 3 := by
  unfold rowBytesOf dataBytes
  omega

/-- Settles O47: a scanline is a whole number of words that holds its data bytes. -/
theorem rowsArePaddedToFourBytes : Obligations.RowsArePaddedToFourBytes :=
  fun w b _ _ => ⟨rfl, rowBytesOf_mod_four w b, dataBytes_le_rowBytesOf w b, rowBytesOf_sub_dataBytes_le w b⟩

/-- Placing a row twice gives the row again (R162). -/
theorem targetY_targetY {h : Int} {r : Nat} (hr : r < h.natAbs) : targetY h (targetY h r).toNat = r := by
  unfold targetY
  split <;> omega

/-- Settles O48: the formula is `targetY` itself, its range is `targetY_mem_image`. -/
theorem targetRowIsItsOwnInverse : Obligations.TargetRowIsItsOwnInverse := by
  intro h r _ hr
  obtain ⟨hlo, hhi⟩ := targetY_mem_image hr
  exact ⟨rfl, hlo, hhi, targetY_targetY hr⟩

theorem targetRow_eq (s : State) : targetRow s =
    if s.cfgHeight.toInt > 0 then (s.cfgHeight.toInt - 1 - s.srcRow.toNat).toNat else s.srcRow.toNat := by
  unfold targetRow targetY
  split
  · rfl
  · exact Int.toNat_natCast _

end Sys2Proof.Machine
end

section
/-! What a decoder reads of the row buffer (42_scanline_decoders.md R164, R165): the bits of an index, and the bytes of a pixel word
(20_memory.md R66). -/

namespace Sys2Proof.Machine

/-- Bit j of an index is a bit of the byte that holds it, MSB first (R165). -/
theorem getLsbD_rowIndex {b j : Nat} (x : Nat) (s : State) (hj : j < 8) :
    (rowIndex b x s).getLsbD j =
      (decide (j < b) && (rowByte (x / (8 / b)) s).getLsbD (8 - b * (x % (8 / b) + 1) + j)) := by
  rw [rowIndex, BitVec.getLsbD_ofNat, Nat.testBit_and, Nat.testBit_shiftRight, Nat.testBit_two_pow_sub_one,
    decide_eq_true hj, Bool.true_and, Bool.and_comm, BitVec.getLsbD]

/-- idx_1(x): one bit (R170). -/
theorem rowIndex_one (x : Nat) (s : State) :
    rowIndex 1 x s = (BitVec.ofBool ((rowByte (x / 8) s).getLsbD (7 - x % 8))).setWidth 8 := by
  refine BitVec.eq_of_getLsbD_eq fun j hj => ?_
  rw [getLsbD_rowIndex x s hj, BitVec.getLsbD_setWidth, BitVec.getLsbD_ofBool]
  cases j <;> simp

/-- idx_4(x): the high nibble first (R171). -/
theorem rowIndex_four (x : Nat) (s : State) : rowIndex 4 x s =
    if x % 2 = 0 then ((rowByte (x / 2) s).extractLsb' 4 4).setWidth 8
    else ((rowByte (x / 2) s).extractLsb' 0 4).setWidth 8 := by
  refine BitVec.eq_of_getLsbD_eq fun j hj => ?_
  rw [getLsbD_rowIndex x s hj]
  rcases Nat.mod_two_eq_zero_or_one x with hx | hx <;> simp [hx, hj]

/-- idx_8(x): the whole byte (R172). -/
theorem rowIndex_eight (x : Nat) (s : State) : rowIndex 8 x s = rowByte x s := by
  refine BitVec.eq_of_getLsbD_eq fun j hj => ?_
  rw [getLsbD_rowIndex x s hj]
  simp [hj, Nat.mod_one]

/-- A byte above a word adds in the arithmetic of R66. -/
theorem toNat_append_byte {n : Nat} (hi : BitVec n) (lo : Byte) : (hi ++ lo).toNat = hi.toNat * 2 ^ 8 + lo.toNat := by
  rw [BitVec.toNat_append, ← Nat.shiftLeft_add_eq_or_of_lt lo.isLt, Nat.shiftLeft_eq]

/-- LE16 as a number (20_memory.md R66). -/
theorem le16_eq (k : Nat) (s : State) :
    le16 k s = BitVec.ofNat 32 ((rowByte k s).toNat + (rowByte (k + 1) s).toNat * 2 ^ 8) := by
  refine BitVec.eq_of_toNat_eq ?_
  rw [le16, toNat_append_byte, toNat_append_byte, BitVec.toNat_ofNat, BitVec.toNat_ofNat]
  omega

/-- LE32 as a number (20_memory.md R66). -/
theorem le32_eq (k : Nat) (s : State) : le32 k s = BitVec.ofNat 32
    ((rowByte k s).toNat + (rowByte (k + 1) s).toNat * 2 ^ 8 + (rowByte (k + 2) s).toNat * 2 ^ 16 +
      (rowByte (k + 3) s).toNat * 2 ^ 24) := by
  refine BitVec.eq_of_toNat_eq ?_
  rw [le32, toNat_append_byte, toNat_append_byte, toNat_append_byte, BitVec.toNat_ofNat]
  omega

end Sys2Proof.Machine
end

section
/-! A scanline complete in DECODE is stored: DEC1 to DEC32 (42_scanline_decoders.md R163, R170 to R175). -/

namespace Sys2Proof.Machine

/-- `t` is `s` with one more scanline decoded: pixel x of the target row is `p x`, every other cell of IMG is as before, and SRC_ROW,
ROW_WPTR and PHASE move on (R163). -/
def RowWritten (p : Nat → Pixel) (s t : State) : Prop :=
  (let y := if s.cfgHeight.toInt > 0 then (s.cfgHeight.toInt - 1 - s.srcRow.toNat).toNat else s.srcRow.toNat
   (∀ x, x < s.cfgWidth.toNat → imgCell x y t = some (p x)) ∧
   (∀ k, (∀ x, x < s.cfgWidth.toNat → k ≠ imgKey x y) → Memory.find k t.img = Memory.find k s.img)) ∧
  t = { s with
    img := t.img, srcRow := s.srcRow + 1, rowWptr := 0
    phase := if s.srcRow.toNat + 1 = s.rowsTotal.toNat then .done else .decode }

/-- The last row is told by SRC_ROW + 1 = ROWS_TOTAL, which does not wrap while rows are left. -/
theorem srcRow_add_one_eq_iff {s : State} (h : s.srcRow.toNat < s.rowsTotal.toNat) :
    s.srcRow + 1 = s.rowsTotal ↔ s.srcRow.toNat + 1 = s.rowsTotal.toNat := by
  bv_omega

theorem rowWritten_rowStored (pixel : State → Nat → Pixel) {s : State} (h : s.srcRow.toNat < s.rowsTotal.toNat) :
    RowWritten (pixel s) s (rowStored pixel s) := by
  rw [RowWritten, ← targetRow_eq]
  refine ⟨⟨fun x hx => ?cell, fun k hk => ?other⟩, ?frame⟩
  case cell => exact find_writeRow_same (pixel s) hx s.cfgWidth.isLt.le s.img
  case other => exact find_writeRow_other (pixel s) s.img hk
  case frame =>
    simp only [← srcRow_add_one_eq_iff h]
    rfl

/-- Every decoder of the session's depth stores a complete scanline (R163). -/
theorem Inv.exec_decoder_writes {i : Instr} {n : Nat} {pixel : State → Nat → Pixel} {s : State}
    (hi : (i, n, pixel) ∈ decoderTable) (h : Inv s) (hp : s.phase = .decode) (hn : s.bpp.toNat = n)
    (hw : s.rowWptr = s.rowBytes) : ∃ t, exec i s = .next t ∧ RowWritten (pixel s) s t := by
  obtain ⟨hconf, -, hrow⟩ := h.session.entered (.inl hp)
  refine ⟨rowStored pixel s, ?_, rowWritten_rowStored pixel hrow⟩
  rw [exec_decoder hi, decodeRow_full pixel hp hn hw (hn ▸ hconf.rowInStores hrow)]

/-- Settles O49, depth by depth: the index of a pixel is `rowIndex`, in the terms of R170 to R172. -/
theorem indexedDecodersWriteTheRow : Obligations.IndexedDecodersWriteTheRow := by
  intro i n index s hi hinv hp hn hw
  obtain ⟨hmem, hpix⟩ : (i, n, pixelIndexed n) ∈ decoderTable ∧ pixelIndexed n s = fun x => .idx (index x) := by
    rcases hi with ⟨rfl, rfl, rfl⟩ | ⟨rfl, rfl, rfl⟩ | ⟨rfl, rfl, rfl⟩
    · exact ⟨by simp [decoderTable], funext fun x => congrArg Pixel.idx (rowIndex_one x s)⟩
    · exact ⟨by simp [decoderTable], funext fun x => congrArg Pixel.idx (rowIndex_four x s)⟩
    · exact ⟨by simp [decoderTable], funext fun x => congrArg Pixel.idx (rowIndex_eight x s)⟩
  have hrow := hinv.exec_decoder_writes hmem hp hn hw
  rwa [hpix] at hrow

/-- Settles O50: the pixel word is LE16 (R173). -/
theorem dec16WritesTheRow : Obligations.Dec16WritesTheRow := by
  intro s hinv hp hn hw
  simp only [← le16_eq]
  exact hinv.exec_decoder_writes (pixel := pixel16) (by simp [decoderTable]) hp (congrArg BitVec.toNat hn) hw

/-- Settles O51: the pixel is three bytes of the scanline (R174). -/
theorem dec24WritesTheRow : Obligations.Dec24WritesTheRow :=
  fun _ hinv hp hn hw =>
    hinv.exec_decoder_writes (pixel := pixel24) (by simp [decoderTable]) hp (congrArg BitVec.toNat hn) hw

/-- Settles O52: the pixel word is LE32, and `alpha32` is the alpha rule of R138. -/
theorem dec32WritesTheRow : Obligations.Dec32WritesTheRow := by
  intro s hinv hp hn hw
  simp only [← le32_eq]
  exact hinv.exec_decoder_writes (pixel := pixel32) (by simp [decoderTable]) hp (congrArg BitVec.toNat hn) hw

end Sys2Proof.Machine
end

section
/-! What the decoders refuse, in the order of 60_exceptions.md R223. -/

namespace Sys2Proof.Machine

section
variable {n : Nat} {s : State} (pixel : State → Nat → Pixel)

theorem decodeRow_phase (h : s.phase = .idle ∨ s.phase = .done) : decodeRow n pixel s = raise .seq s := by
  rcases h with h | h <;> simp [decodeRow, unlessFailed, h]

theorem decodeRow_depth (h : s.phase = .config ∨ s.phase = .decode) (hn : s.bpp.toNat ≠ n) :
    decodeRow n pixel s = raise .seq s := by
  rcases h with h | h <;> simp [decodeRow, unlessFailed, h, hn]

theorem decodeRow_entry {e : ErrCode} (h : s.phase = .config) (hn : s.bpp.toNat = n) (he : enterDecode s = some e) :
    decodeRow n pixel s = raise e s := by
  simp [decodeRow, unlessFailed, h, hn, he]

/-- Past the phase, depth and entry checks a DECn is the scanline check and the writes (R163). -/
theorem decodeRow_entered (h : s.phase = .decode ∨ s.phase = .config ∧ enterDecode s = none) (hn : s.bpp.toNat = n) :
    decodeRow n pixel s = decodeFullRow n pixel s := by
  rcases h with h | ⟨h, he⟩
  · simp [decodeRow, unlessFailed, h, hn]
  · simp [decodeRow, unlessFailed, h, hn, he]

theorem decodeFullRow_incomplete (h : s.rowWptr ≠ s.rowBytes) : decodeFullRow n pixel s = raise .ioRow s := if_pos h

end

theorem exists_pixel_of_depth {i : Instr} {n : Nat} (h : (i, n) ∈ decoderTable.map fun d => (d.1, d.2.1)) :
    ∃ pixel, (i, n, pixel) ∈ decoderTable := by
  obtain ⟨⟨_, _, pixel⟩, hmem, heq⟩ := List.mem_map.mp h
  cases heq
  exact ⟨pixel, hmem⟩

/-- Settles O53: check by check; in CONFIG the scanline is empty, so it is never complete (`PhaseInv.decode_of_full_row`). -/
theorem decodersRefuseInOrder : Obligations.DecodersRefuseInOrder := by
  intro i n s hi
  obtain ⟨pixel, hmem⟩ := exists_pixel_of_depth hi
  rw [exec_decoder hmem]
  have incomplete (hp : s.phase = .decode ∨ s.phase = .config ∧ enterDecode s = none) (hn : s.bpp.toNat = n)
      (hw : s.rowWptr ≠ s.rowBytes) : decodeRow n pixel s = raise .ioRow s :=
    (decodeRow_entered pixel hp hn).trans (decodeFullRow_incomplete pixel hw)
  refine ⟨decodeRow_phase pixel, decodeRow_depth pixel, fun _ => decodeRow_entry pixel, incomplete, ?config⟩
  intro hinv hp he hn
  refine incomplete (.inr ⟨hp, he⟩) hn fun hw => ?_
  exact absurd (hinv.session.decode_of_full_row (.inr ⟨hp, he⟩) hw) (by simp [hp])

end Sys2Proof.Machine
end

section
/-! A change of the state that no check of a decoder sees goes through the decoder (42_scanline_decoders.md R163). -/

namespace Sys2Proof.Machine

/-- A change `g` of the state an outcome ends in. -/
def mapNext (g : State → State) : Result → Result
  | .next t => .next (g t)
  | .fault r => .fault r
  | .refused r => .refused r

/-- The checks of a decoder do not see the change `g`, and `g` sees nothing of error entry. -/
structure Unchecked (g : State → State) : Prop where
  phase : ∀ s, (g s).phase = s.phase
  bpp : ∀ s, (g s).bpp = s.bpp
  entry : ∀ s, enterDecode (g s) = enterDecode s
  rowWptr : ∀ s, (g s).rowWptr = s.rowWptr
  rowBytes : ∀ s, (g s).rowBytes = s.rowBytes
  raised : ∀ e s, raise e (g s) = mapNext g (raise e s)

section
variable {n : Nat} {pixel : State → Nat → Pixel} {g : State → State} {s : State}

theorem storeRow_mapNext (hin : rowInStores n (g s) ↔ rowInStores n s)
    (hrow : rowStored pixel (g s) = g (rowStored pixel s)) : storeRow n pixel (g s) = mapNext g (storeRow n pixel s) := by
  by_cases h : rowInStores n s
  · rw [storeRow_inStores pixel h, storeRow_inStores pixel (hin.mpr h), hrow]
    rfl
  · rw [storeRow, storeRow, if_neg h, if_neg (mt hin.mp h)]
    rfl

/-- A decoder commutes with an unchecked change if storing the row does. -/
theorem Unchecked.decodeRow_mapNext (hg : Unchecked g)
    (hstore : s.bpp.toNat = n → storeRow n pixel (g s) = mapNext g (storeRow n pixel s)) :
    decodeRow n pixel (g s) = mapNext g (decodeRow n pixel s) := by
  have full (hn : s.bpp.toNat = n) : decodeFullRow n pixel (g s) = mapNext g (decodeFullRow n pixel s) := by
    rw [decodeFullRow, decodeFullRow, hg.rowWptr, hg.rowBytes]
    split
    · exact hg.raised .ioRow s
    · exact hstore hn
  simp only [decodeRow, unlessFailed, hg.phase, hg.bpp, hg.entry]
  split
  · rfl
  split
  · exact hg.raised .seq s
  split
  · exact hg.raised .seq s
  next hn =>
  split
  · split
    · exact hg.raised _ s
    · exact full (not_not.mp hn)
  · exact full (not_not.mp hn)

end

theorem exists_decoderTable {i : Instr} (h : i ∈ decoders) : ∃ n pixel, (i, n, pixel) ∈ decoderTable := by
  obtain ⟨⟨_, n, pixel⟩, hmem, rfl⟩ := List.mem_map.mp (show i ∈ decoderTable.map Prod.fst from h)
  exact ⟨n, pixel, hmem⟩

/-- From the changed state a DECn answers the changed answer, if the change keeps the row in the stores and commutes with its
writes. -/
theorem Unchecked.exec_next {i : Instr} {g : State → State} {s t : State} (hg : Unchecked g) (hi : i ∈ decoders)
    (hin : ∀ n, rowInStores n (g s) ↔ rowInStores n s)
    (hrow : ∀ n pixel, (i, n, pixel) ∈ decoderTable → s.bpp.toNat = n → rowStored pixel (g s) = g (rowStored pixel s))
    (h : exec i s = .next t) : exec i (g s) = .next (g t) := by
  obtain ⟨n, pixel, hmem⟩ := exists_decoderTable hi
  rw [exec_decoder hmem] at h ⊢
  rw [hg.decodeRow_mapNext fun hn => storeRow_mapNext (hin n) (hrow n pixel hmem hn), h]
  rfl

end Sys2Proof.Machine
end

section
/-! Padding bytes and unused low bits never reach a pixel (42_scanline_decoders.md R164, R166). -/

namespace Sys2Proof.Machine

theorem unchecked_rowbuf (rb : List Host.Cell) : Unchecked fun s => { s with rowbuf := rb } :=
  ⟨fun _ => rfl, fun _ => rfl, fun _ => rfl, fun _ => rfl, fun _ => rfl, fun _ _ => rfl⟩

/-- The row buffers agree in the first `d` bits, counted MSB first in each byte (R165, R166). -/
def DataBitsAgree (d : Nat) (s t : State) : Prop :=
  ∀ k b, 8 * k + b < d → b < 8 → (rowByte k t).getLsbD (7 - b) = (rowByte k s).getLsbD (7 - b)

namespace DataBitsAgree
variable {d : Nat} {s t : State}

/-- A byte of data bits only is the same byte. -/
theorem rowByte_eq (h : DataBitsAgree d s t) {k : Nat} (hk : 8 * k + 8 ≤ d) : rowByte k t = rowByte k s := by
  refine BitVec.eq_of_getLsbD_eq fun j hj => ?_
  have hbit := h k (7 - j) (by omega) (by omega)
  rwa [show 7 - (7 - j) = j by omega] at hbit

/-- The index of a pixel is made of the bits n * x to n * x + n - 1 of the scanline (R165). -/
theorem rowIndex_eq (h : DataBitsAgree d s t) {n x : Nat} (hn : n = 1 ∨ n = 4 ∨ n = 8) (hx : n * x + n ≤ d) :
    rowIndex n x t = rowIndex n x s := by
  refine BitVec.eq_of_getLsbD_eq fun j hj => ?_
  rw [getLsbD_rowIndex x t hj, getLsbD_rowIndex x s hj]
  by_cases hjn : j < n
  · have hpos : 8 * (x / (8 / n)) + (n * (x % (8 / n) + 1) - 1 - j) < d ∧ n * (x % (8 / n) + 1) - 1 - j < 8 ∧
        8 - n * (x % (8 / n) + 1) + j = 7 - (n * (x % (8 / n) + 1) - 1 - j) := by
      rcases hn with rfl | rfl | rfl <;> omega
    obtain ⟨hdata, hlt, heq⟩ := hpos
    rw [heq, h _ _ hdata hlt]
  · simp [hjn]

end DataBitsAgree

/-- A pixel of the row is made of data bits only, at every depth (R170 to R175). -/
theorem pixel_rowbuf {i : Instr} {n : Nat} {pixel : State → Nat → Pixel} (hi : (i, n, pixel) ∈ decoderTable) {s : State}
    {rb : List Host.Cell} {w x : Nat} (h : DataBitsAgree (w * n) s { s with rowbuf := rb }) (hx : x < w) :
    pixel { s with rowbuf := rb } x = pixel s x := by
  simp only [decoderTable, List.mem_cons, Prod.mk.injEq, List.not_mem_nil, or_false] at hi
  rcases hi with ⟨-, rfl, rfl⟩ | ⟨-, rfl, rfl⟩ | ⟨-, rfl, rfl⟩ | ⟨-, rfl, rfl⟩ | ⟨-, rfl, rfl⟩ | ⟨-, rfl, rfl⟩
  case inl | inr.inl | inr.inr.inl => exact congrArg Pixel.idx (h.rowIndex_eq (by decide) (by omega))
  · have hword : le16 (2 * x) { s with rowbuf := rb } = le16 (2 * x) s := by
      rw [le16, le16, h.rowByte_eq (by omega), h.rowByte_eq (by omega)]
    simp only [pixel16, hword]
  · simp only [pixel24]
    rw [h.rowByte_eq (by omega), h.rowByte_eq (by omega), h.rowByte_eq (by omega)]
  · have hword : le32 (4 * x) { s with rowbuf := rb } = le32 (4 * x) s := by
      rw [le32, le32, h.rowByte_eq (by omega), h.rowByte_eq (by omega), h.rowByte_eq (by omega), h.rowByte_eq (by omega)]
    simp only [pixel32, hword]

theorem rowStored_rowbuf {pixel : State → Nat → Pixel} {s : State} {rb : List Host.Cell}
    (h : ∀ x, x < s.cfgWidth.toNat → pixel { s with rowbuf := rb } x = pixel s x) :
    rowStored pixel { s with rowbuf := rb } = { rowStored pixel s with rowbuf := rb } := by
  simp only [rowStored, writeRow_congr h]

/-- Settles O54: the checks do not read the row buffer, and the pixels read its data bits only. -/
theorem paddingNeverReachesAPixel : Obligations.PaddingNeverReachesAPixel := by
  intro i s t rb hi h hbits
  refine (unchecked_rowbuf rb).exec_next hi (fun _ => Iff.rfl) (fun n pixel hmem hn => ?_) h
  exact rowStored_rowbuf fun x hx => pixel_rowbuf hmem (hn ▸ hbits) hx

end Sys2Proof.Machine
end

section
/-! A one-row image decodes alike for both signs of the height (42_scanline_decoders.md R177). -/

namespace Sys2Proof.Machine

theorem unchecked_cfgHeight (h : Word) : Unchecked fun s => { s with cfgHeight := h } :=
  ⟨fun _ => rfl, fun _ => rfl, fun _ => rfl, fun _ => rfl, fun _ => rfl, fun _ _ => rfl⟩

/-- No decoder reads the height for a pixel (R170 to R175). -/
theorem pixel_cfgHeight {i : Instr} {n : Nat} {pixel : State → Nat → Pixel} (hi : (i, n, pixel) ∈ decoderTable) (s : State)
    (h : Word) : pixel { s with cfgHeight := h } = pixel s := by
  simp only [decoderTable, List.mem_cons, Prod.mk.injEq, List.not_mem_nil, or_false] at hi
  rcases hi with ⟨-, -, rfl⟩ | ⟨-, -, rfl⟩ | ⟨-, -, rfl⟩ | ⟨-, -, rfl⟩ | ⟨-, -, rfl⟩ | ⟨-, -, rfl⟩ <;> rfl

theorem targetY_one_row {h : Int} (hh : h = 1 ∨ h = -1) : targetY h 0 = 0 := by
  rcases hh with rfl | rfl <;> rfl

/-- Settles O55: both signs send source row 0 to image row 0, and nothing else reads the height. -/
theorem oneRowImageIgnoresTheHeightSign : Obligations.OneRowImageIgnoresTheHeightSign := by
  refine ⟨targetY_one_row (.inl rfl), targetY_one_row (.inr rfl), fun i s t hi hh hr h => ?_⟩
  have hrow : targetY (-1 : Word).toInt s.srcRow.toNat = targetY s.cfgHeight.toInt s.srcRow.toNat := by
    rw [hh, hr]
    rfl
  refine (unchecked_cfgHeight (-1)).exec_next hi (fun n => ?stores) (fun n pixel hmem _ => ?row) h
  case stores => simp only [rowInStores, signedArg, hrow]
  case row => simp only [rowStored, signedArg, hrow, pixel_cfgHeight hmem]

end Sys2Proof.Machine
end

section
/-! Palette lookup and image read-back: PAL_RD, PIX_RD, IDX_RD (43_readback.md R200 to R208). -/

namespace Sys2Proof.Machine

/-! ## The checks, in the order of 60_exceptions.md R223 -/

theorem insideImage_eq_false_iff (s : State) :
    insideImage s = false ↔ s.cfgWidth.toNat ≤ s.arg0.toNat ∨ s.rowsTotal.toNat ≤ s.arg1.toNat := by
  rw [← Bool.not_eq_true, insideImage_iff, not_and_or, Nat.not_lt, Nat.not_lt]

section
variable {s : State}

theorem phase_ne_failed_of_done (hp : s.phase = .done) : s.phase ≠ .failed := by
  rw [hp]
  nofun

theorem exec_palRd_seq (hf : s.phase ≠ .failed) (h : s.phase ≠ .done ∨ s.indexed = false) :
    exec .palRd s = raise .seq s := by
  rw [exec, execPalRd, unlessFailed_live hf, if_pos (by simpa using h)]

theorem exec_idxRd_seq (hf : s.phase ≠ .failed) (h : s.phase ≠ .done ∨ s.indexed = false) :
    exec .idxRd s = raise .seq s := by
  rw [exec, execIdxRd, unlessFailed_live hf, if_pos (by simpa using h)]

theorem exec_pixRd_seq (hf : s.phase ≠ .failed) (h : s.phase ≠ .done) : exec .pixRd s = raise .seq s := by
  rw [exec, execPixRd, unlessFailed_live hf, if_pos h]

section
variable (hp : s.phase = .done)
include hp

theorem exec_palRd_range (hi : s.indexed = true) (h : s.palLen.toNat ≤ s.arg0.toNat ∨ 256 ≤ s.arg0.toNat) :
    exec .palRd s = raise .range s := by
  rw [exec, execPalRd, unlessFailed_live (phase_ne_failed_of_done hp), if_neg (by simp [hp, hi])]
  exact if_pos h

theorem exec_pixRd_range (h : insideImage s = false) : exec .pixRd s = raise .range s := by
  rw [exec, execPixRd, unlessFailed_live (phase_ne_failed_of_done hp), if_neg (by simp [hp]), if_pos h]

theorem exec_idxRd_range (hi : s.indexed = true) (h : insideImage s = false) : exec .idxRd s = raise .range s := by
  rw [exec, execIdxRd, unlessFailed_live (phase_ne_failed_of_done hp), if_neg (by simp [hp, hi]), if_pos h]

theorem exec_palRd_reads (hi : s.indexed = true) (hlen : s.arg0.toNat < s.palLen.toNat) (hdepth : s.arg0.toNat < 256) :
    exec .palRd s = .next (setPixelResult (opaqueColour (palEntry s.arg0.toNat s)) s) := by
  simp [exec, execPalRd, unlessFailed, Config.palDepth, hp, hi, hlen.not_ge, hdepth.not_ge]

end
end

/-- Settles O56, check by check; the result is the opaque palette colour in the C8 layout. -/
theorem palRdReadsThePalette : Obligations.PalRdReadsThePalette :=
  ⟨by decide, fun _ => ⟨exec_palRd_reads, exec_palRd_seq, exec_palRd_range⟩⟩

/-- Settles O59, check by check. -/
theorem pixelReadBackRefusesInOrder : Obligations.PixelReadBackRefusesInOrder :=
  fun s => ⟨exec_pixRd_seq, exec_idxRd_seq, fun hp hout =>
    have hin := (insideImage_eq_false_iff s).mpr hout
    ⟨exec_pixRd_range hp hin, fun hi => exec_idxRd_range hp hi hin⟩⟩

/-! ## The cell of a pixel inside the image -/

theorem palLookup_stored {i : Byte} {s : State} (h : i.toNat < s.palLen.toNat) :
    palLookup i s = some (opaqueColour (palEntry i.toNat s)) := if_neg h.not_ge

theorem palLookup_beyond {i : Byte} {s : State} (h : s.palLen.toNat ≤ i.toNat) : palLookup i s = none := if_pos h

section
variable {s : State} (hp : s.phase = .done) (hin : insideImage s = true)
include hp hin

/-- A direct-colour cell is its own colour. -/
theorem exec_pixRd_of_direct {c : Pixel} (hcell : imgCell s.arg0.toNat s.arg1.toNat s = some c) (hc : ∀ i, c ≠ .idx i) :
    exec .pixRd s = .next (setPixelResult c s) := by
  cases c with
  | idx i => exact absurd rfl (hc i)
  | c8 | c16 => simp [exec, execPixRd, unlessFailed, hp, hin, hcell]

theorem exec_pixRd_of_none (hcell : imgCell s.arg0.toNat s.arg1.toNat s = none) :
    exec .pixRd s = .fault .imgCellNone := by
  simp [exec, execPixRd, unlessFailed, hp, hin, hcell]

section
variable {i : Byte} (hcell : imgCell s.arg0.toNat s.arg1.toNat s = some (.idx i))
include hcell

theorem exec_pixRd_of_idx_stored (h : i.toNat < s.palLen.toNat) :
    exec .pixRd s = .next (setPixelResult (opaqueColour (palEntry i.toNat s)) s) := by
  simp [exec, execPixRd, unlessFailed, hp, hin, hcell, palLookup_stored h]

theorem exec_pixRd_of_idx_beyond (h : s.palLen.toNat ≤ i.toNat) : exec .pixRd s = raise .palIndex s := by
  simp [exec, execPixRd, unlessFailed, hp, hin, hcell, palLookup_beyond h]

theorem exec_idxRd_of_idx (hi : s.indexed = true) : exec .idxRd s = .next (setPixelResult (.idx i) s) := by
  simp [exec, execIdxRd, unlessFailed, hp, hi, hin, hcell]

end
end

/-- Settles O57, cell kind by cell kind. -/
theorem pixRdReadsTheColour : Obligations.PixRdReadsTheColour := by
  intro s hp hx hy
  have hin := (insideImage_iff s).mpr ⟨hx, hy⟩
  refine ⟨fun _ _ _ _ hcell => ?c8, fun _ _ _ _ hcell => ?c16, fun _ => ?stored, fun _ => ?beyond, ?none⟩
  case c8 | c16 => exact exec_pixRd_of_direct hp hin hcell nofun
  case stored => exact exec_pixRd_of_idx_stored hp hin
  case beyond => exact exec_pixRd_of_idx_beyond hp hin
  case none => exact exec_pixRd_of_none hp hin

/-- Settles O58: in DONE every cell of the image holds a pixel of the session's depth (`PhaseInv.imgCell_of_done`), which in an
indexed session is an index. -/
theorem idxRdReadsTheIndex : Obligations.IdxRdReadsTheIndex := by
  intro s hinv hp hi hx hy
  have hin := (insideImage_iff s).mpr ⟨hx, hy⟩
  obtain ⟨p, hcell, hfits⟩ := hinv.session.imgCell_of_done hp hin
  obtain ⟨hconf, -⟩ := hinv.session.done hp
  obtain ⟨i, rfl⟩ := idx_of_pixelFits (hconf.indexed.symm.trans hi) hfits
  refine ⟨i, hcell, ?_⟩
  rw [exec_idxRd_of_idx hp hin hcell hi, BitVec.ofNat_toNat]
  rfl

/-! ## The default masks of 32-bit pixels -/

/-- A mask one byte wide extracts that byte of the pixel word. -/
theorem channel8_of_width_eight (p : Word) {m : Word} (h : maskWidth m = 8) :
    channel8 p m = p.extractLsb' (maskShift m) 8 := by
  refine BitVec.eq_of_toNat_eq ?_
  rw [channel8, extract_eq, h, BitVec.toNat_ofNat, Nat.mod_mod, BitVec.extractLsb'_toNat, Nat.shiftRight_eq_div_pow]

/-- The four default masks at 32 bits are the four bytes of the word, alpha on top (41_mask_channel.md R132). -/
theorem channel8_defaultMask (p : Word) :
    channel8 p (defaultMask 32 .r) = p.extractLsb' 16 8 ∧ channel8 p (defaultMask 32 .g) = p.extractLsb' 8 8 ∧
      channel8 p (defaultMask 32 .b) = p.extractLsb' 0 8 ∧ channel8 p (defaultMask 32 .a) = p.extractLsb' 24 8 :=
  ⟨channel8_of_width_eight p (by decide), channel8_of_width_eight p (by decide), channel8_of_width_eight p (by decide),
    channel8_of_width_eight p (by decide)⟩

/-- The bytes of a word, the highest first, are the word. -/
theorem append_bytes_eq (p : Word) :
    (p.extractLsb' 24 8 ++ p.extractLsb' 16 8 ++ p.extractLsb' 8 8 ++ p.extractLsb' 0 8 : BitVec 32) = p := by
  rw [BitVec.extractLsb'_append_extractLsb'_eq_extractLsb' (by rfl),
    BitVec.extractLsb'_append_extractLsb'_eq_extractLsb' (by rfl),
    BitVec.extractLsb'_append_extractLsb'_eq_extractLsb' (by rfl)]
  exact BitVec.extractLsb'_eq_self

/-- Settles O60: the default alpha mask is not zero, so `alpha32` extracts alpha as any other channel, and the four channels are
the bytes of the word in the order of the C8 layout. -/
theorem defaultMasksReturnThePixelWord : Obligations.DefaultMasksReturnThePixelWord := by
  intro p
  obtain ⟨hr, hg, hb, ha⟩ := channel8_defaultMask p
  rw [alpha32, if_neg (by decide), hr, hg, hb, ha, append_bytes_eq]

end Sys2Proof.Machine
end

section
/-! A failed session (60_exceptions.md R225 to R227): it ignores every command but NOP, RESET and CFG, and its first error stands
until one of the ways out of FAILED. -/

namespace Sys2Proof.Machine

/-- Settles O7: every command but the three the statement excludes stands behind the FAILED filter. -/
theorem failedIgnoresAllButNopResetCfg : Obligations.FailedIgnoresAllButNopResetCfg := by
  intro s i hf hnop hreset hcfg
  cases i with
  | nop => exact absurd rfl hnop
  | reset => exact absurd rfl hreset
  | cfg bpp bf => exact absurd rfl (hcfg bpp bf)
  | maskWr | palPush | rowPush | palRd | pixRd | idxRd | maskAn | chx16 | chx32 | dec1 | dec4 | dec8 | dec16 | dec24
  | dec32 => exact unlessFailed_failed hf

/-- In FAILED a command that is no way out of it changes nothing (60_exceptions.md R225, R226). -/
theorem Effect.eq_of_failed {i : Instr} {s t : State} (h : Effect s i t) (hf : s.phase = .failed) (hreset : i ≠ .reset)
    (hcfg : ∀ bpp bf, i ≠ .cfg bpp bf) : t = s := by
  cases h with
  | ignored | nop => rfl
  | errorEntry _ _ hp | result _ hp => exact absurd hf hp
  | reset => exact absurd rfl hreset
  | cfgFails bpp bf | cfgPasses bpp bf => exact absurd rfl (hcfg bpp bf)
  | maskLoaded _ hp | entryStored hp | entryDiscarded hp => cases hf.symm.trans hp
  | bytesPushed hp | rowDecoded _ _ _ _ hp => exact absurd hf (phase_ne_failed_of_entered hp)

/-- A write to CMD performs the word it carries (10_state.md R22). -/
@[simp] theorem causeOf_cmd_write (p : Params) (width : Nat) (v : Word) :
    causeOf p (.write width (p.baseAddr + 0x008) v) = some (.word (decode v)) := if_pos rfl

/-- Settles O22, by the inversion of step: a read, a write elsewhere than to CMD, an illegal word and a command that is no way out
of FAILED all leave PHASE and ERR alone. -/
theorem failedSessionKeepsItsFirstError : Obligations.FailedSessionKeepsItsFirstError := by
  intro s t a rest hf hpend hstep hne hreset hcfg
  rcases step_effect hstep with ⟨hidle, -⟩ | ⟨a', rest', hpend', hinput⟩
  · exact nomatch hpend.symm.trans hidle
  obtain ⟨rfl, rfl⟩ : a = a' ∧ rest = rest' := List.cons.inj (hpend.symm.trans hpend')
  rcases hinput with ⟨ha, -⟩ | ⟨_, -, -, -, rfl⟩ | ⟨off, v, rfl, -, -, hwrite⟩
  · exact absurd ha hne
  · exact ⟨hf, rfl⟩
  rcases hwrite with ⟨rfl, i, hi, he⟩ | ⟨-, _, -, ⟨-, rfl⟩ | ⟨hlive, -⟩⟩ | ⟨-, _, _, _, rfl⟩
  · obtain rfl := he.eq_of_failed hf (by simpa [hi] using hreset) (by simpa [hi] using hcfg)
    exact ⟨hf, rfl⟩
  · exact ⟨hf, rfl⟩
  · exact absurd hf hlive
  · exact ⟨hf, rfl⟩

end Sys2Proof.Machine
end

section
/-! Contents of PAL and ROWBUF nobody pushed are never observed (70_reset_and_hazards.md R251): a state and the same state with
other such contents answer every input alike, and still differ in nothing else. -/

namespace Sys2Proof.Machine

/-! ## Two states alike, and two answers alike -/

/-- `s` with other contents of PAL and ROWBUF. -/
def withStores (pal : Store Rgb) (rb : List Host.Cell) (s : State) : State := { s with palette := pal, rowbuf := rb }

/-- The answers of a command or a step that no host can tell apart: the same stop, or next states that differ only in what
nobody pushed. -/
inductive Alike : Result → Result → Prop where
  | next {s t : State} (h : SameButUnpushed s t) : Alike (.next s) (.next t)
  | fault (r : Fault) : Alike (.fault r) (.fault r)
  | refused (r : Refusal) : Alike (.refused r) (.refused r)

theorem Alike.exists_next {s : State} {q : Result} (h : Alike (.next s) q) : ∃ t, q = .next t ∧ SameButUnpushed s t := by
  cases h with
  | next h => exact ⟨_, rfl, h⟩

theorem alike_ite {c : Prop} [Decidable c] {r q r' q' : Result} (ht : c → Alike r q) (hf : ¬ c → Alike r' q') :
    Alike (if c then r else r') (if c then q else q') := by
  split
  · next hc => exact ht hc
  · next hc => exact hf hc

/-- An access reaches a register of both states, or neither (20_memory.md R61, R65). -/
theorem alike_onBus {width addr : Nat} {s : State} {pal : Store Rgb} {rb : List Host.Cell} {k k' : Nat → Result}
    (hk : ∀ off, Alike (k off) (k' off)) : Alike (onBus width addr s k) (onBus width addr (withStores pal rb s) k') :=
  alike_ite (fun _ => .refused _) fun _ => alike_ite (fun _ => .fault _) fun _ => hk _

section
variable (pal : Store Rgb) (rb : List Host.Cell) (s : State)

@[simp] theorem withStores_phase : (withStores pal rb s).phase = s.phase := rfl

@[simp] theorem withStores_arg0 : (withStores pal rb s).arg0 = s.arg0 := rfl
@[simp] theorem withStores_arg1 : (withStores pal rb s).arg1 = s.arg1 := rfl

@[simp] theorem imgCell_withStores (x y : Nat) : imgCell x y (withStores pal rb s) = imgCell x y s := rfl

/-- The entry check reads registers only (40_session.md R110). -/
@[simp] theorem enterDecode_withStores : enterDecode (withStores pal rb s) = enterDecode s := rfl

/-- No register reads PAL or ROWBUF (10_state.md R40, R41). -/
theorem memRead_withStores (off : Nat) : memRead off (withStores pal rb s) = memRead off s := by
  unfold memRead
  split
  · next r _ =>
    cases r with
    | mask c | msw c => cases c <;> rfl
    | _ => rfl
  · rfl

/-- A cleared session has nothing pushed (40_session.md R103). -/
theorem sameButUnpushed_clearSession : SameButUnpushed (clearSession s) (withStores pal rb (clearSession s)) :=
  ⟨rfl, fun _ hi => absurd hi (Nat.not_lt_zero _), fun _ hk => absurd hk (Nat.not_lt_zero _)⟩

end

namespace SameButUnpushed
variable {s : State} {pal : Store Rgb} {rb : List Host.Cell} (h : SameButUnpushed s (withStores pal rb s))
include h

theorem alike_unlessFailed {r q : Result} (hlive : s.phase ≠ .failed → Alike r q) :
    Alike (unlessFailed s r) (unlessFailed (withStores pal rb s) q) :=
  alike_ite (fun _ => .next h) hlive

/-! ## What each update makes of two states alike -/

theorem alike_raise (e : ErrCode) : Alike (raise e s) (raise e (withStores pal rb s)) :=
  .next ⟨rfl, h.pushedEntries, h.pushedBytes⟩

/-- A check of registers that raises an error does so on both sides. -/
theorem alike_check {c : Prop} [Decidable c] {e : ErrCode} {r q : Result} (hpass : ¬ c → Alike r q) :
    Alike (if c then raise e s else r) (if c then raise e (withStores pal rb s) else q) :=
  alike_ite (fun _ => h.alike_raise e) hpass

theorem alike_setResult (a b c : Word) : Alike (.next (setResult a b c s)) (.next (setResult a b c (withStores pal rb s))) :=
  .next ⟨rfl, h.pushedEntries, h.pushedBytes⟩

theorem alike_setPixelResult (p : Pixel) :
    Alike (.next (setPixelResult p s)) (.next (setPixelResult p (withStores pal rb s))) := by
  cases p <;> exact h.alike_setResult ..

/-- The entry PAL_PUSH stores is the same one on both sides (40_session.md R106). -/
theorem entryStored (e : Rgb) :
    SameButUnpushed { setPalEntry s.palCnt.toNat e s with palCnt := s.palCnt + 1 }
      { setPalEntry s.palCnt.toNat e (withStores pal rb s) with palCnt := s.palCnt + 1 } where
  registers := rfl
  pushedBytes := h.pushedBytes
  pushedEntries i hi hd := by
    have hlt : i < (s.palCnt + 1).toNat := hi
    show palEntry i (setPalEntry _ e (withStores pal rb s)) = palEntry i (setPalEntry _ e s)
    rw [palEntry_setPalEntry, palEntry_setPalEntry]
    split
    · rfl
    · exact h.pushedEntries i (by bv_omega) hd

/-- An entry PAL_PUSH discards is one PAL has no place for (R106). -/
theorem entryDiscarded (hd : Config.palDepth ≤ s.palCnt.toNat) :
    SameButUnpushed { s with palCnt := s.palCnt + 1 } { withStores pal rb s with palCnt := s.palCnt + 1 } :=
  ⟨rfl, fun i _ hi => h.pushedEntries i (hi.trans_le hd) hi, h.pushedBytes⟩

/-- The four bytes ROW_PUSH stores are the same on both sides (R107). -/
theorem bytesPushed :
    SameButUnpushed { pushBytes s with phase := .decode, rowWptr := s.rowWptr + 4 }
      { pushBytes (withStores pal rb s) with phase := .decode, rowWptr := s.rowWptr + 4 } where
  registers := rfl
  pushedEntries := h.pushedEntries
  pushedBytes k hk := by
    have hlt : k < (s.rowWptr + 4).toNat := hk
    by_cases hold : k < s.rowWptr.toNat
    · exact (rowByte_pushBytes_out (s := withStores pal rb s) (.inl hold)).trans
        ((h.pushedBytes k hold).trans (rowByte_pushBytes_out (.inl hold)).symm)
    · obtain ⟨j, rfl⟩ := Nat.exists_eq_add_of_le (Nat.not_lt.mp hold)
      have hj : j < 4 := by bv_omega
      exact (rowByte_pushBytes_in (s := withStores pal rb s) hj).trans (rowByte_pushBytes_in (s := s) hj).symm

/-! ## The loading commands -/

omit h in
theorem alike_execCfg (bpp : Nat) (bf : Bool) : Alike (execCfg bpp bf s) (execCfg bpp bf (withStores pal rb s)) := by
  have hc := sameButUnpushed_clearSession pal rb s
  refine hc.alike_check fun _ => hc.alike_check fun _ => hc.alike_check fun _ => ?_
  exact .next ⟨rfl, hc.pushedEntries, hc.pushedBytes⟩

theorem alike_execMaskWr (ch : Channel) : Alike (execMaskWr ch s) (execMaskWr ch (withStores pal rb s)) := by
  refine h.alike_unlessFailed fun _ => h.alike_check fun _ => h.alike_check fun _ => ?_
  cases ch <;> exact .next ⟨rfl, h.pushedEntries, h.pushedBytes⟩

theorem alike_execPalPush : Alike (execPalPush s) (execPalPush (withStores pal rb s)) := by
  refine h.alike_unlessFailed fun _ => h.alike_check fun _ => h.alike_check fun _ => ?_
  exact alike_ite (fun _ => .next (h.entryStored _)) fun hd => .next (h.entryDiscarded (Nat.not_lt.mp hd))

theorem alike_pushRow : Alike (pushRow s) (pushRow (withStores pal rb s)) :=
  h.alike_check fun _ => alike_ite (fun _ => .next h.bytesPushed) fun _ => .fault _

theorem alike_execRowPush : Alike (execRowPush s) (execRowPush (withStores pal rb s)) := by
  refine h.alike_unlessFailed fun _ => ?_
  rw [withStores_phase, enterDecode_withStores]
  cases s.phase with
  | config =>
    cases enterDecode s with
    | some e => exact h.alike_raise e
    | none => exact h.alike_pushRow
  | decode => exact h.alike_pushRow
  | idle | done | failed => exact h.alike_raise _

end SameButUnpushed

/-! ## The decoders -/

/-- A decoder asks for pixels of a complete row of its own depth only (42_scanline_decoders.md R163). -/
theorem decodeRow_congr {n : Nat} {p q : State → Nat → Pixel} {s : State}
    (h : s.bpp.toNat = n → s.rowWptr = s.rowBytes → ∀ x, x < s.cfgWidth.toNat → p s x = q s x) :
    decodeRow n p s = decodeRow n q s := by
  have full (hn : s.bpp.toNat = n) : decodeFullRow n p s = decodeFullRow n q s := by
    by_cases hw : s.rowWptr = s.rowBytes
    · simp only [decodeFullRow, storeRow, rowStored, writeRow_congr (h hn hw)]
    · rw [decodeFullRow_incomplete p hw, decodeFullRow_incomplete q hw]
  by_cases hn : s.bpp.toNat = n
  · simp only [decodeRow, full hn]
  · simp only [decodeRow, if_pos hn]

/-- The bits of the pixels of a row lie in ROW_BYTES bytes (42_scanline_decoders.md R161). -/
theorem PhaseInv.dataBits_le {s : State} (h : PhaseInv s) : s.cfgWidth.toNat * s.bpp.toNat ≤ 8 * s.rowBytes.toNat := by
  rcases h.cleared_or_configured with hclear | hconf
  · simp [hclear.cfgWidth]
  · rw [hconf.rowBytes, rowBytesOf]
    omega

/-- No decoder reads PAL (R170 to R175). -/
theorem pixel_palette {i : Instr} {n : Nat} {pixel : State → Nat → Pixel} (hi : (i, n, pixel) ∈ decoderTable) (s : State)
    (pal : Store Rgb) : pixel { s with palette := pal } = pixel s := by
  simp only [decoderTable, List.mem_cons, Prod.mk.injEq, List.not_mem_nil, or_false] at hi
  rcases hi with ⟨-, -, rfl⟩ | ⟨-, -, rfl⟩ | ⟨-, -, rfl⟩ | ⟨-, -, rfl⟩ | ⟨-, -, rfl⟩ | ⟨-, -, rfl⟩ <;> rfl

/-- In DONE every entry PAL_LEN counts is pushed (40_session.md R110). -/
theorem PhaseInv.palCnt_of_done {s : State} (h : PhaseInv s) (hp : s.phase = .done) : s.palCnt = s.palLen := by
  simp only [PhaseInv, hp] at h
  obtain ⟨-, hentry, -⟩ := h
  by_contra hne
  exact nomatch hentry.symm.trans ((entryCheckFindsTheFirstFailure s).1.mpr hne)

namespace SameButUnpushed
variable {s : State} {pal : Store Rgb} {rb : List Host.Cell} (h : SameButUnpushed s (withStores pal rb s))
include h

/-- A decoder whose pixels do not depend on the state sees no difference: its checks read registers only. -/
theorem alike_decodeRow_const (n : Nat) (p : Nat → Pixel) :
    Alike (decodeRow n (fun _ => p) s) (decodeRow n (fun _ => p) (withStores pal rb s)) := by
  have full : Alike (decodeFullRow n (fun _ => p) s) (decodeFullRow n (fun _ => p) (withStores pal rb s)) := by
    refine h.alike_check fun _ => alike_ite (fun _ => .next ?_) fun _ => .fault _
    exact ⟨rfl, h.pushedEntries, fun _ hk => absurd hk (Nat.not_lt_zero _)⟩
  refine h.alike_unlessFailed fun _ => h.alike_check fun _ => h.alike_check fun _ => ?_
  refine alike_ite (fun _ => ?_) fun _ => full
  rw [enterDecode_withStores]
  cases enterDecode s with
  | some e => exact h.alike_raise e
  | none => exact full

section
variable (hinv : PhaseInv s)
include hinv

/-- Every byte that holds data bits of a complete row is pushed. -/
theorem dataBitsAgree (hw : s.rowWptr = s.rowBytes) :
    DataBitsAgree (s.cfgWidth.toNat * s.bpp.toNat) s { s with rowbuf := rb } := by
  intro k b hkb _
  have hbits := hinv.dataBits_le
  rw [show rowByte k { s with rowbuf := rb } = rowByte k s from h.pushedBytes k (by rw [hw]; omega)]

/-- The pixels a decoder reads come from pushed bytes only, so it is a decoder of constant pixels. -/
theorem alike_decodeRow {i : Instr} {n : Nat} {pixel : State → Nat → Pixel} (hi : (i, n, pixel) ∈ decoderTable) :
    Alike (decodeRow n pixel s) (decodeRow n pixel (withStores pal rb s)) := by
  have hpixel : decodeRow n pixel (withStores pal rb s) = decodeRow n (fun _ => pixel s) (withStores pal rb s) := by
    refine decodeRow_congr fun hn hw x hx => ?_
    calc pixel (withStores pal rb s) x
      _ = pixel { s with rowbuf := rb } x := congrFun (pixel_palette hi { s with rowbuf := rb } pal) x
      _ = pixel s x := pixel_rowbuf hi (hn ▸ h.dataBitsAgree hinv hw) hx
  rw [hpixel]
  exact h.alike_decodeRow_const n (pixel s)

/-! ## Read-back -/

/-- In DONE an entry below PAL_LEN is pushed (43_readback.md R200, R203). -/
theorem palEntry_of_done (hp : s.phase = .done) {i : Nat} (hi : i < s.palLen.toNat) (hd : i < Config.palDepth) :
    palEntry i (withStores pal rb s) = palEntry i s :=
  h.pushedEntries i (hinv.palCnt_of_done hp ▸ hi) hd

theorem alike_execPalRd : Alike (execPalRd s) (execPalRd (withStores pal rb s)) := by
  refine h.alike_unlessFailed fun _ => h.alike_check fun hp => h.alike_check fun hi => ?_
  obtain ⟨hdone, -⟩ := not_or.mp hp
  obtain ⟨hlen, hdepth⟩ := not_or.mp hi
  have hentry := h.palEntry_of_done hinv (not_not.mp hdone) (Nat.not_le.mp hlen) (Nat.not_le.mp hdepth)
  show Alike _ (.next (setPixelResult (opaqueColour (palEntry s.arg0.toNat (withStores pal rb s))) _))
  rw [hentry]
  exact h.alike_setPixelResult _

/-- In DONE the palette lookup finds pushed entries only (R200). -/
theorem palLookup_of_done (hp : s.phase = .done) (i : Byte) : palLookup i (withStores pal rb s) = palLookup i s := by
  by_cases hi : i.toNat < s.palLen.toNat
  · rw [palLookup_stored hi, palLookup_stored (s := withStores pal rb s) hi, h.palEntry_of_done hinv hp hi i.isLt]
  · rw [palLookup_beyond (Nat.not_lt.mp hi), palLookup_beyond (s := withStores pal rb s) (Nat.not_lt.mp hi)]

theorem alike_execPixRd : Alike (execPixRd s) (execPixRd (withStores pal rb s)) := by
  refine h.alike_unlessFailed fun _ => h.alike_check fun hp => h.alike_check fun _ => ?_
  rw [imgCell_withStores, withStores_arg0, withStores_arg1]
  cases imgCell s.arg0.toNat s.arg1.toNat s with
  | none => exact .fault _
  | some p =>
    cases p with
    | idx i =>
      simp only [h.palLookup_of_done hinv (not_not.mp hp)]
      cases palLookup i s with
      | some c => exact h.alike_setPixelResult c
      | none => exact h.alike_raise _
    | c8 | c16 => exact h.alike_setPixelResult _

omit hinv in
theorem alike_execIdxRd : Alike (execIdxRd s) (execIdxRd (withStores pal rb s)) := by
  refine h.alike_unlessFailed fun _ => h.alike_check fun _ => h.alike_check fun _ => ?_
  rw [imgCell_withStores, withStores_arg0, withStores_arg1]
  cases imgCell s.arg0.toNat s.arg1.toNat s with
  | none => exact .fault _
  | some p =>
    cases p with
    | idx i => exact h.alike_setPixelResult _
    | c8 | c16 => exact .fault _

/-! ## Every command, every input -/

theorem alike_exec (i : Instr) : Alike (exec i s) (exec i (withStores pal rb s)) := by
  have decoder (hi : i ∈ decoders) : Alike (exec i s) (exec i (withStores pal rb s)) := by
    obtain ⟨n, pixel, hmem⟩ := exists_decoderTable hi
    rw [exec_decoder hmem, exec_decoder hmem]
    exact h.alike_decodeRow hinv hmem
  cases i with
  | nop => exact .next h
  | reset => exact .next (sameButUnpushed_clearSession pal rb s)
  | cfg bpp bf => exact alike_execCfg bpp bf
  | maskWr ch => exact h.alike_execMaskWr ch
  | palPush => exact h.alike_execPalPush
  | rowPush => exact h.alike_execRowPush
  | palRd => exact h.alike_execPalRd hinv
  | pixRd => exact h.alike_execPixRd hinv
  | idxRd => exact h.alike_execIdxRd
  | maskAn => exact h.alike_unlessFailed fun _ => h.alike_setResult ..
  | chx16 | chx32 => exact h.alike_unlessFailed fun _ => h.alike_check fun _ => h.alike_setResult ..
  | dec1 | dec4 | dec8 | dec16 | dec24 | dec32 => exact decoder (by decide)

theorem alike_performCmd (w : Word) : Alike (performCmd w s) (performCmd w (withStores pal rb s)) := by
  unfold performCmd
  split
  · exact h.alike_exec hinv _
  · exact h.alike_unlessFailed fun _ => h.alike_raise _

theorem alike_memWrite (off : Nat) (v : Word) : Alike (memWrite off v s) (memWrite off v (withStores pal rb s)) := by
  unfold memWrite
  split
  · exact h.alike_performCmd hinv v
  all_goals exact .next ⟨rfl, h.pushedEntries, h.pushedBytes⟩

theorem alike_takeInput (a : Access) : Alike (takeInput a s) (takeInput a (withStores pal rb s)) := by
  cases a with
  | read width addr =>
    simp only [takeInput, memRead_withStores]
    exact alike_onBus fun off => .next ⟨rfl, h.pushedEntries, h.pushedBytes⟩
  | write width addr v => exact alike_onBus fun off => h.alike_memWrite hinv off v
  | hardwareReset => exact .next ⟨rfl, fun _ _ _ => rfl, fun _ _ => rfl⟩

theorem alike_step : Alike (step s) (step (withStores pal rb s)) := by
  cases hp : s.pending with
  | nil =>
    rw [step_idle hp, step_idle (s := withStores pal rb s) hp]
    exact .next h
  | cons a rest =>
    rw [step_cons hp, step_cons (s := withStores pal rb s) hp]
    have htaken : SameButUnpushed { s with pending := rest } (withStores pal rb { s with pending := rest }) :=
      ⟨rfl, h.pushedEntries, h.pushedBytes⟩
    exact htaken.alike_takeInput (hinv.congr rfl rfl) a

end

end SameButUnpushed

/-- Settles O27: the two states answer the oldest input alike, with the same stop or with next states that again differ only in
what nobody pushed (`SameButUnpushed.alike_step`). -/
theorem unpushedContentsAreNeverObserved : Obligations.UnpushedContentsAreNeverObserved := by
  intro s t s' hinv h hstep
  obtain ⟨pal, rb, rfl⟩ : ∃ pal rb, t = withStores pal rb s := ⟨_, _, h.registers⟩
  exact (hstep ▸ h.alike_step hinv.session).exists_next

end Sys2Proof.Machine
end
